-- ==== Sys2Proof/Word.lean ====
section
/-!
DEFINITION. The widths of the core's values (00_scope.md R14, R16): bytes of a stream, 16-bit colour words and
length fields, 32-bit registers, 15-bit RGB555 colours.
-/

namespace Sys2Proof

/-- One byte of a stream or of a memory. -/
abbrev Byte := BitVec 8

/-- A 16-bit field: a colour word or the flip-length field (30_encoding.md R82, R85). -/
abbrev Half := BitVec 16

/-- A host register, address or datum, 32 bits (10_state.md R21, 20_memory.md R66). -/
abbrev Word := BitVec 32

/-- An RGB555 colour: red 14:10, green 9:5, blue 4:0 (00_scope.md R16). -/
abbrev Colour := BitVec 15

end Sys2Proof
end

