-- ==== Sys2Proof/Syntax.lean ====
section
/-!
DEFINITION. The instructions of the core, whole: one constructor per row of spec/opcode_table.json. The first four
are the tokens of the pixel stream (30_encoding.md R88, R95), the last four the START values a host writes to CTRL
(30_encoding.md R96).
-/

namespace Sys2Proof

/-- The instruction set of the core (00_scope.md R4). -/
inductive Instr where
  /-- `SGL i`: one pixel of colour-table entry `i` (41_pixel_decoder.md R150). -/
  | sgl (i : BitVec 6)
  /-- `DBL i`: two pixels of colour-table entry `i` (R151). -/
  | dbl (i : BitVec 6)
  /-- `DIC j`: dictionary pair `j`, its order chosen by the next flip bit (R152). -/
  | dic (j : BitVec 6)
  /-- `RUN i, r + 3`: a run of colour-table entry `i` (R153); `r` is the run byte. -/
  | run (i : BitVec 6) (r : Byte)
  /-- START of DECODE, with the ENC_MODE and SNIFF_STRICT bits of the written word (R140). -/
  | decode (mode strict : Bool)
  /-- START of ENCODE (42_pixel_encoder.md R181). -/
  | encode (mode strict : Bool)
  /-- START of SNIFF (43_format_sniffer.md R211). -/
  | sniff (mode strict : Bool)
  /-- START with a reserved CMD, 0 or 4 to 7 (60_exceptions.md R236). -/
  | badCommand (cmd : BitVec 3) (mode strict : Bool)
deriving DecidableEq, Repr

/-- Where an instruction's bits arrive: in the token stream (IN), or in a 32-bit write to CTRL (00_scope.md R4). -/
inductive Source where
  | stream
  | control
deriving DecidableEq, Repr

/-- The level of an instruction (00_scope.md R4). -/
def Instr.source : Instr → Source
  | .sgl _ => .stream
  | .dbl _ => .stream
  | .dic _ => .stream
  | .run _ _ => .stream
  | .decode _ _ => .control
  | .encode _ _ => .control
  | .sniff _ _ => .control
  | .badCommand _ _ _ => .control

end Sys2Proof
end

