-- ==== Sys2Proof/WellFormed.lean ====
section
/-!
DEFINITION. Which terms of Instr an encoding stands for. Every operand's range is in its type; the one check left is
that BAD_COMMAND carries a reserved CMD.
-/

namespace Sys2Proof

/-- The reserved values of CTRL.CMD: 0 and 4 to 7 (10_state.md R22). -/
def reservedCmd (c : BitVec 3) : Bool := c == 0#3 || 4#3 ≤ c

/-- A term of Instr that some encoding stands for (30_encoding.md R91, R96). -/
def Instr.wellFormed : Instr → Bool
  | .sgl _ => true
  | .dbl _ => true
  | .dic _ => true
  | .run _ _ => true
  | .decode _ _ => true
  | .encode _ _ => true
  | .sniff _ _ => true
  | .badCommand c _ _ => reservedCmd c

end Sys2Proof
end

