-- ==== Sys2Proof/Decode.lean ====
section
/-!
DEFINITION. Decoding of tokens and of START words, total on any bytes and rejecting by name (30_encoding.md R87 to
R96), and after it the encoder.
-/

namespace Sys2Proof

/-- Why bytes are no instruction. -/
inductive DecodeError where
  /-- No byte at all. -/
  | exhausted
  /-- A RUN opcode byte with no run byte after it (41_pixel_decoder.md R153). -/
  | runByteMissing
  /-- Fewer than the four bytes of a CTRL write. -/
  | shortWord
  /-- A CTRL word with bit 31 = 0 starts nothing (10_state.md R48). -/
  | noStart
deriving DecidableEq, Repr

/-- What decoding answers: an instruction and the bytes after it, or a rejection by name. -/
inductive Decoded where
  | ok (i : Instr) (rest : List Byte)
  | rejected (why : DecodeError)
deriving DecidableEq, Repr

/-- OP, the opcode field of the first byte of a token (R87). -/
def opcodeField (v : Byte) : BitVec 2 := v.extractLsb' 6 2

/-- OPND, the operand field of the first byte of a token (R87, R89). -/
def operandField (v : Byte) : BitVec 6 := v.extractLsb' 0 6

/-- One token from the front of a byte stream (R87, R88, R90, R95). The four opcode values are all the values of the
2-bit field, so no MALFORMED_OPCODE arm is left (41_pixel_decoder.md R144). -/
def decodeToken : List Byte → Decoded
  | [] => .rejected .exhausted
  | v :: rest =>
    let x := operandField v
    if opcodeField v = 0b00#2 then .ok (.sgl x) rest
    else if opcodeField v = 0b01#2 then .ok (.dbl x) rest
    else if opcodeField v = 0b10#2 then .ok (.dic x) rest
    else
      match rest with
      | [] => .rejected .runByteMissing
      | r :: rest' => .ok (.run x r) rest'

/-- CTRL.CMD (10_state.md R22). -/
def ctrlCmd (w : Word) : BitVec 3 := w.extractLsb' 0 3

/-- CTRL.ENC_MODE (10_state.md R22). -/
def ctrlMode (w : Word) : Bool := w.getLsbD 3

/-- CTRL.SNIFF_STRICT (10_state.md R22). -/
def ctrlStrict (w : Word) : Bool := w.getLsbD 4

/-- Bit 31 of a word written to CTRL (10_state.md R22, R48). -/
def ctrlStart (w : Word) : Bool := w.getLsbD 31

/-- The command a word written to CTRL starts, none where bit 31 is 0 (30_encoding.md R96). Bits 30:5 are reserved and
their written values ignored (10_state.md R22). -/
def decodeCommand (w : Word) : Option Instr :=
  if ctrlStart w then
    let m := ctrlMode w
    let s := ctrlStrict w
    if ctrlCmd w = 1#3 then some (.decode m s)
    else if ctrlCmd w = 2#3 then some (.encode m s)
    else if ctrlCmd w = 3#3 then some (.sniff m s)
    else some (.badCommand (ctrlCmd w) m s)
  else none

/-- A 32-bit word from its bytes, the one at the lowest address least significant (20_memory.md R64). -/
def wordOfBytes (b0 b1 b2 b3 : Byte) : Word := b3 ++ b2 ++ b1 ++ b0

/-- The bytes of a 32-bit word in increasing address order (20_memory.md R64). -/
def bytesOfWord (w : Word) : List Byte :=
  [w.extractLsb' 0 8, w.extractLsb' 8 8, w.extractLsb' 16 8, w.extractLsb' 24 8]

/-- One START word from the bytes of a CTRL write. -/
def decodeControl : List Byte → Decoded
  | b0 :: b1 :: b2 :: b3 :: rest =>
    match decodeCommand (wordOfBytes b0 b1 b2 b3) with
    | some i => .ok i rest
    | none => .rejected .noStart
  | _ => .rejected .shortWord

/-- The instruction at the front of the bytes that arrive at a source. -/
def decode (src : Source) (bytes : List Byte) : Decoded :=
  match src with
  | .stream => decodeToken bytes
  | .control => decodeControl bytes

/-- The START value of a command: `0x8000_0000 | SNIFF_STRICT << 4 | ENC_MODE << 3 | CMD` (30_encoding.md R96). -/
def startWord (cmd : BitVec 3) (mode strict : Bool) : Word :=
  1#1 ++ 0#26 ++ BitVec.ofBool strict ++ BitVec.ofBool mode ++ cmd

/-- The bytes of an instruction in increasing address order (30_encoding.md R88, R96). -/
def encode : Instr → List Byte
  | .sgl i => [0b00#2 ++ i]
  | .dbl i => [0b01#2 ++ i]
  | .dic j => [0b10#2 ++ j]
  | .run i r => [0b11#2 ++ i, r]
  | .decode m s => bytesOfWord (startWord 1#3 m s)
  | .encode m s => bytesOfWord (startWord 2#3 m s)
  | .sniff m s => bytesOfWord (startWord 3#3 m s)
  | .badCommand c m s => bytesOfWord (startWord c m s)

/-- Byte `k` of a word numbered as spec/opcode_table.json numbers its bits. -/
def tableByte (w k : Nat) : Byte := BitVec.ofNat 8 (w / 2 ^ (8 * k))

/-- The instruction read from a row of spec/opcode_table.json. Token rows are at most 16 bits wide and are read as
stream bytes; command rows are 32 bits wide and are read as the bytes of a CTRL write. -/
def decodeTableWord (nbits w : Nat) : Option Instr :=
  let answer :=
    if nbits ≤ 16 then decode .stream [tableByte w 0, tableByte w 1]
    else decode .control [tableByte w 0, tableByte w 1, tableByte w 2, tableByte w 3]
  match answer with
  | .ok i _ => some i
  | .rejected _ => none

end Sys2Proof
end

