-- ==== Sys2Proof/Config.lean ====
section
/-!
DEFINITION. What an implementation fixes: the two buffer capacities (00_scope.md R12), and the free values, which no
rule fixes (93_implementation_defined.md U3 to U6).
-/

namespace Sys2Proof

/-- The build parameters of one core (00_scope.md R12). State carries them and no step writes them (log 7). -/
structure Params where
  /-- IN_CAP, bytes in IN. -/
  inCap : Nat
  /-- OUT_CAP, bytes in OUT. -/
  outCap : Nat
deriving DecidableEq, Repr

/-- The legal ranges of 00_scope.md R12. -/
abbrev Params.legal (p : Params) : Prop :=
  70919 ≤ p.inCap ∧ p.inCap ≤ 2 ^ 32 - 65536 ∧ 5386 ≤ p.outCap ∧ p.outCap ≤ 32768

/-- The defaults of 00_scope.md R12. -/
def Params.standard : Params := { inCap := 131072, outCap := 8192 }

/-- FREE VALUE (logs 8, 9, 10, 11): the byte drawn at a given index of State's `draws` counter. It has no body, so
nothing can be proved of its value. -/
opaque Config.freeByte : Nat → Byte

/-- FREE VALUE (logs 8, 11): the register value drawn at a given index of State's `draws` counter. -/
opaque Config.freeWord : Nat → Word

end Sys2Proof
end

