-- ==== Sys2Proof/Machine/State.lean ====
section
/-!
DEFINITION. The state of one core (10_state.md R20): the register file (R21 to R31), the engine's working state (R34
to R41), the five memories (R43 to R47), and the model's own fields, each with a log entry; its reset (70_reset_and_hazards.md
R261 to R263).
-/

namespace Sys2Proof.Machine

open Sys2Proof

/-- A memory: (offset, byte) pairs. An offset with no entry reads as 0x00 (log 4); the one canonical form is
`Memory.wf`. -/
abbrev Memory := List Host.Cell

/-- The section the engine processes at its next step; `idle` when no command runs (10_state.md R41, log 17). -/
inductive Phase where
  | idle
  | ct
  | dict
  | flen
  | fbits
  | pixels
  /-- END: after pixel 5000. -/
  | ending
deriving DecidableEq, Repr

/-- STATUS.CODE, the error kinds of 60_exceptions.md R232. -/
inductive Code where
  | none
  | shortRead
  /-- Defined, and raised by nothing (R234, log 18). -/
  | malformedOpcode
  | pixelCountMismatch
  | unsupportedRaster
  | badFlipLength
  | rowOverflow
  | flipOverrun
  | trailingData
  | badCommand
  | badLength
deriving DecidableEq, Repr

/-- STATUS.SECTION (60_exceptions.md R233). -/
inductive Sec where
  | none
  | ct
  | dict
  | flen
  | fbits
  | pixels
  | ending
  | input
deriving DecidableEq, Repr

/-- The result a command completes with (10_state.md R50). -/
structure Result where
  err : Bool
  accept : Bool
  trailing : Bool
  code : Code
  sec : Sec
  outLen : Nat
deriving DecidableEq, Repr

/-- What a running ENCODE writes: the selected dictionary, the flip bits and the token bytes, the locals SEL, F and B of
42_pixel_encoder.md R190 and R191 (log 20). -/
structure EncodePlan where
  sel : List (Colour × Colour)
  flips : List Bool
  body : List Byte
deriving DecidableEq, Repr

/-- The widths of a host access (20_memory.md R67). -/
inductive Width where
  | w8
  | w16
  | w32
deriving DecidableEq, Repr

/-- What the host does next (60_exceptions.md R253, 70_reset_and_hazards.md R260, log 1). -/
inductive HostEvent where
  /-- The host is silent for one step of the engine. -/
  | wait
  /-- A read of a width at a host address; its value goes to `replies`. -/
  | read (w : Width) (a : Word)
  /-- A write of the low bits of a value. -/
  | write (w : Width) (a : Word) (v : Word)
  /-- The reset event. -/
  | reset
deriving DecidableEq, Repr

/-- The five memory windows of the host map (20_memory.md R66). -/
inductive Window where
  | pal
  | idx
  | pix
  | out
  | inp
deriving DecidableEq, Repr

/-- The whole state of one core. -/
structure State where
  /-- CTRL, R22. -/
  ctrl : Word
  /-- STATUS, R23. -/
  status : Word
  /-- IN_LEN, R24. -/
  inLen : Word
  /-- PAL_COUNT, R25. -/
  palCount : Word
  /-- OUT_LEN, R26. -/
  outLen : Word
  /-- BYTE_CURSOR, R27. -/
  byteCursor : Word
  /-- PIX_COUNT, R28. -/
  pixCount : Word
  /-- FLIP_CURSOR, R29. -/
  flipCursor : Word
  /-- FLIP_LEN, R30. -/
  flipLen : Word
  /-- Latched CMD, R34. -/
  cmd : BitVec 3
  /-- Latched ENC_MODE, R34. -/
  mode : Bool
  /-- Latched SNIFF_STRICT, R34. -/
  strict : Bool
  /-- The byte cursor, the core's program counter, R35. -/
  pos : Nat
  /-- The latched stream length, R35. -/
  len : Nat
  /-- The pixel counter, R36. -/
  count : Nat
  /-- The flip cursor, R37. -/
  fcur : Nat
  /-- The color table, R38. -/
  ct : Vector Colour 64
  /-- Left halves of the dictionary, R39. -/
  dl : Vector Colour 64
  /-- Right halves of the dictionary, R39. -/
  dr : Vector Colour 64
  /-- The flip-length value L, R40. -/
  flipL : Half
  /-- The number of flip bytes, R40. -/
  nfb : Nat
  /-- R41. -/
  phase : Phase
  /-- The locals SEL, F and B of a running ENCODE, 42_pixel_encoder.md R190, R191 (log 20). -/
  plan : EncodePlan
  /-- IN, R43. -/
  inMem : Memory
  /-- OUT, R44. -/
  outMem : Memory
  /-- PAL, R45. -/
  palMem : Memory
  /-- IDX, R46. -/
  idxMem : Memory
  /-- PIX, R47. -/
  pixMem : Memory
  /-- MODEL: the build parameters, 00_scope.md R12 (log 7). -/
  params : Params
  /-- MODEL: the host's accesses still to come, in program order (log 1). -/
  hostQ : List HostEvent
  /-- MODEL: values returned to host reads, newest first (log 15). -/
  replies : List Word
  /-- MODEL: the index of the next free value (log 12). -/
  draws : Nat
  /-- MODEL: an input memory was written while the running command was BUSY, R266 (log 11). -/
  tainted : Bool
  /-- MODEL: offsets of PIX bytes written by the host while BUSY, R71 (log 9). -/
  dirtyPix : List Nat
  /-- MODEL: offsets of OUT bytes written by the host while BUSY, R71 (log 9). -/
  dirtyOut : List Nat
deriving DecidableEq, Repr

/-- Faults that stop the machine: none. Every error of the core is an abort that completes the command (60_exceptions.md
R230, R240), and no host access raises an error (R253). Safe: the type is empty, so no step answers a fault. -/
inductive Fault where
deriving DecidableEq, Repr

/-- Refusals of the model. -/
inductive Refusal where
  /-- Raised by an arm of `exec` whose instruction has no meaning yet; no arm of this model raises it. Safe: the
  machine stops where the hardware would go on. -/
  | notModelled (mnemonic : String)
deriving DecidableEq, Repr

/-- The outcomes of one step. -/
abbrev Step := Host.Outcome State Fault Refusal

/-- The machine right after reset (70_reset_and_hazards.md R261, R262, R263). The values R262 and R263 leave
unspecified are zero (logs 4 and 6); the parameters are the defaults of 00_scope.md R12. -/
def State.reset : State where
  ctrl := 0x00000010#32
  status := 0#32
  inLen := 0#32
  palCount := 0#32
  outLen := 0#32
  byteCursor := 0#32
  pixCount := 0#32
  flipCursor := 0#32
  flipLen := 0#32
  cmd := 0#3
  mode := false
  strict := true
  pos := 0
  len := 0
  count := 0
  fcur := 0
  ct := Vector.replicate 64 0#15
  dl := Vector.replicate 64 0#15
  dr := Vector.replicate 64 0#15
  flipL := 0#16
  nfb := 0
  phase := .idle
  plan := { sel := [], flips := [], body := [] }
  inMem := []
  outMem := []
  palMem := []
  idxMem := []
  pixMem := []
  params := Params.standard
  hostQ := []
  replies := []
  draws := 0
  tainted := false
  dirtyPix := []
  dirtyOut := []

end Sys2Proof.Machine
end

