-- ==== Sys2Proof/Machine/Flags.lean ====
section
/-!
DEFINITION. The fields of STATUS and CTRL (10_state.md R22, R23), the numbers of the error kinds and sections
(60_exceptions.md R232, R233), and the STATUS word of a completion (10_state.md R50). These are all the flags of the
core (R33).
-/

namespace Sys2Proof.Machine

open Sys2Proof

/-- The number of an error kind (60_exceptions.md R232). -/
def Code.number : Code → BitVec 4
  | .none => 0#4
  | .shortRead => 1#4
  | .malformedOpcode => 2#4
  | .pixelCountMismatch => 3#4
  | .unsupportedRaster => 4#4
  | .badFlipLength => 5#4
  | .rowOverflow => 6#4
  | .flipOverrun => 7#4
  | .trailingData => 8#4
  | .badCommand => 9#4
  | .badLength => 10#4

/-- The number of a section (60_exceptions.md R233). -/
def Sec.number : Sec → BitVec 3
  | .none => 0#3
  | .ct => 1#3
  | .dict => 2#3
  | .flen => 3#3
  | .fbits => 4#3
  | .pixels => 5#3
  | .ending => 6#3
  | .input => 7#3

/-- The STATUS register from its fields, reserved bits 0 (10_state.md R23). -/
def statusWord (busy done err accept trailing : Bool) (code : BitVec 4) (sec : BitVec 3) : Word :=
  0#17 ++ sec ++ code ++ 0#3 ++ BitVec.ofBool trailing ++ BitVec.ofBool accept ++ BitVec.ofBool err
    ++ BitVec.ofBool done ++ BitVec.ofBool busy

/-- STATUS right after START: BUSY = 1, all other fields 0 (10_state.md R48). -/
def busyStatus : Word := 1#32

/-- STATUS at completion (10_state.md R50). -/
def Result.status (r : Result) : Word :=
  statusWord false true r.err r.accept r.trailing r.code.number r.sec.number

/-- STATUS at the completion of a command whose inputs were written while it ran, from a free value: BUSY = 0 and
DONE = 1, as every completion leaves them, reserved bits 0, the rest free (70_reset_and_hazards.md R266, log 11). All
four bits of CODE are free, so that it may read 2 or 11 to 15, which R232 and R234 say are never produced: DESIGN CHOICE,
log 26. -/
def freeStatus (w : Word) : Word :=
  statusWord false true (w.getLsbD 2) (w.getLsbD 3) (w.getLsbD 4) (w.extractLsb' 8 4) (w.extractLsb' 12 3)

/-- STATUS.BUSY. -/
def State.busy (s : State) : Bool := s.status.getLsbD 0

/-- STATUS.DONE. -/
def State.done (s : State) : Bool := s.status.getLsbD 1

/-- STATUS.ERR. -/
def State.err (s : State) : Bool := s.status.getLsbD 2

/-- STATUS.ACCEPT. -/
def State.accept (s : State) : Bool := s.status.getLsbD 3

/-- STATUS.TRAILING. -/
def State.trailing (s : State) : Bool := s.status.getLsbD 4

/-- STATUS.CODE. -/
def State.code (s : State) : BitVec 4 := s.status.extractLsb' 8 4

/-- STATUS.SECTION. -/
def State.sectionCode (s : State) : BitVec 3 := s.status.extractLsb' 12 3

/-- CTRL from its three stored fields; START and the reserved bits read 0 (10_state.md R22). -/
def ctrlWord (cmd : BitVec 3) (mode strict : Bool) : Word :=
  0#27 ++ BitVec.ofBool strict ++ BitVec.ofBool mode ++ cmd

/-- CTRL.CMD = 1. -/
def cmdDecode : BitVec 3 := 1#3

/-- CTRL.CMD = 2. -/
def cmdEncode : BitVec 3 := 2#3

/-- CTRL.CMD = 3. -/
def cmdSniff : BitVec 3 := 3#3

/-- The running command is SNIFF. -/
def State.sniffing (s : State) : Bool := s.cmd == cmdSniff

/-- The running command is ENCODE. -/
def State.encoding (s : State) : Bool := s.cmd == cmdEncode

/-- Whether an abort sets ERR: always in DECODE and ENCODE, in SNIFF only for BAD_COMMAND and BAD_LENGTH; the other
aborts of a SNIFF are rejects (43_format_sniffer.md R212, 60_exceptions.md R236, R240). -/
def abortErr (sniffing : Bool) : Code → Bool
  | .badCommand => true
  | .badLength => true
  | _ => !sniffing

end Sys2Proof.Machine
end

