-- ==== Sys2Proof/Machine/Ops.lean ====
section
/-!
DEFINITION. The named operations over memory and registers: byte and 16-bit accesses, free values written into a
memory, pixel emission, completion (10_state.md R50), and TAKING AN ABORT (60_exceptions.md R240), the core's only
exception. There is no return from an abort (R241): after completion the core is idle until the next START
(`State.start`, R48).
-/

namespace Sys2Proof.Machine

open Sys2Proof

/-- What an offset that nothing has written reads as (log 4; 93_implementation_defined.md U8). -/
def background : Byte := 0x00#8

/-- The canonical form: offsets strictly rising, no entry equal to the background. -/
abbrev Memory.wf (m : Memory) : Prop :=
  m.Pairwise (fun c d => c.1 < d.1) ∧ ∀ c ∈ m, c.2 ≠ background

/-- Every entry of a memory lies below a size. -/
abbrev Memory.within (m : Memory) (size : Nat) : Prop := ∀ c ∈ m, c.1 < size

/-- One byte. -/
def Memory.read : Memory → Nat → Byte
  | [], _ => background
  | (k, b) :: rest, a => if k = a then b else Memory.read rest a

/-- Put an entry before the first entry of a higher offset. -/
def Memory.place : Memory → Nat → Byte → Memory
  | [], a, v => [(a, v)]
  | (k, b) :: rest, a, v => if a < k then (a, v) :: (k, b) :: rest else (k, b) :: Memory.place rest a v

/-- Write one byte, keeping the canonical form. -/
def Memory.write (m : Memory) (a : Nat) (v : Byte) : Memory :=
  let others : Memory := m.filter (fun c => c.1 ≠ a)
  if v = background then others else others.place a v

/-- Write bytes at increasing offsets. -/
def Memory.writeBytes : Memory → Nat → List Byte → Memory
  | m, _, [] => m
  | m, a, b :: bs => Memory.writeBytes (m.write a b) (a + 1) bs

/-- A 16-bit field from its two bytes, low byte first (20_memory.md R61). -/
def halfOfBytes (lo hi : Byte) : Half := hi ++ lo

/-- The two bytes of a 16-bit field, low byte first (20_memory.md R61). -/
def bytesOfHalf (h : Half) : List Byte := [h.extractLsb' 0 8, h.extractLsb' 8 8]

/-- A 16-bit little-endian read. -/
def Memory.readHalf (m : Memory) (a : Nat) : Half := halfOfBytes (m.read a) (m.read (a + 1))

/-- A 16-bit little-endian write. -/
def Memory.writeHalf (m : Memory) (a : Nat) (h : Half) : Memory := m.writeBytes a (bytesOfHalf h)

/-- FREE VALUES: write to each listed offset `o` the free byte of index `base + o`. -/
def Memory.fill : Memory → Nat → List Nat → Memory
  | m, _, [] => m
  | m, base, o :: os => Memory.fill (m.write o (Config.freeByte (base + o))) base os

/-- The number of bytes in PIX (10_state.md R47); irreducible, so that no proof step runs through 10000 offsets. -/
@[irreducible] def pixBytes : Nat := 10000

/-- The byte of IN at a stream offset, `IN_BYTE(k)` (00_scope.md R15). -/
def State.inByte (s : State) (k : Nat) : Byte := s.inMem.read k

/-- The 16-bit little-endian field of IN at a stream offset (20_memory.md R61). -/
def State.inHalf (s : State) (k : Nat) : Half := s.inMem.readHalf k

/-- Write bytes of OUT. -/
def State.putOut (s : State) (off : Nat) (bytes : List Byte) : State :=
  { s with outMem := s.outMem.writeBytes off bytes }

/-- Entry `k` of PIX (10_state.md R47). -/
def State.pixel (s : State) (k : Nat) : Half := s.pixMem.readHalf (2 * k)

/-- `emit(p)`: one pixel at entry `count` of PIX, bit 15 zero (41_pixel_decoder.md R142). -/
def State.emit (s : State) (p : Colour) : State :=
  { s with pixMem := s.pixMem.writeHalf (2 * s.count) (p.setWidth 16), count := s.count + 1 }

/-- Emit pixels in order. -/
def State.emitAll (s : State) : List Colour → State
  | [] => s
  | p :: ps => (s.emit p).emitAll ps

/-- The host's next access has been taken. -/
def State.nextEvent (s : State) : State := { s with hostQ := s.hostQ.tail }

/-- START (10_state.md R48): CTRL bits 4:0 are written, CMD, ENC_MODE and SNIFF_STRICT latched, STATUS set to BUSY, the
result registers and the cursors cleared, the stream length latched. -/
def State.start (cmd : BitVec 3) (mode strict : Bool) (s : State) : State :=
  { s with
    ctrl := ctrlWord cmd mode strict
    cmd := cmd
    mode := mode
    strict := strict
    status := busyStatus
    outLen := 0#32
    byteCursor := 0#32
    pixCount := 0#32
    flipCursor := 0#32
    flipLen := 0#32
    pos := 0
    len := s.inLen.toNat
    count := 0
    fcur := 0
    flipL := 0#16 }

/-- The register writes of a completion (10_state.md R50). -/
def State.reportResult (r : Result) (s : State) : State :=
  { s with
    status := r.status
    outLen := BitVec.ofNat 32 r.outLen
    byteCursor := BitVec.ofNat 32 s.pos
    pixCount := BitVec.ofNat 32 s.count
    flipCursor := BitVec.ofNat 32 s.fcur
    flipLen := s.flipL.setWidth 32 }

/-- FREE VALUES (log 11): the results of a command one of whose inputs the host wrote while it ran
(70_reset_and_hazards.md R266): STATUS, OUT_LEN, the diagnostic registers, PIX and OUT. -/
def State.reportFree (s : State) : State :=
  { s with
    status := freeStatus (Config.freeWord s.draws)
    outLen := Config.freeWord (s.draws + 1)
    byteCursor := Config.freeWord (s.draws + 2)
    pixCount := Config.freeWord (s.draws + 3)
    flipCursor := Config.freeWord (s.draws + 4)
    flipLen := ((Config.freeWord (s.draws + 5)).setWidth 16).setWidth 32
    pixMem := s.pixMem.fill (s.draws + 6) (List.range pixBytes)
    outMem := s.outMem.fill (s.draws + 6 + pixBytes) (List.range s.params.outCap)
    draws := s.draws + 6 + pixBytes + s.params.outCap }

/-- FREE VALUES (log 9): the bytes of PIX and OUT the host wrote while the command ran (20_memory.md R71). -/
def State.settleDirty (s : State) : State :=
  { s with
    pixMem := s.pixMem.fill s.draws s.dirtyPix
    outMem := s.outMem.fill (s.draws + pixBytes) s.dirtyOut
    draws := s.draws + pixBytes + s.params.outCap
    dirtyPix := []
    dirtyOut := [] }

/-- Completion (10_state.md R50): the results are reported, the phase returns to IDLE, BUSY falls and DONE rises. -/
def State.complete (r : Result) (s : State) : State :=
  let reported := if s.tainted then s.reportFree else s.reportResult r
  { reported.settleDirty with phase := .idle, tainted := false }

/-- FREE VALUES (log 10): the PIX entries from `count` on, after an aborted DECODE (41_pixel_decoder.md R156). -/
def State.loosePixels (s : State) : State :=
  { s with
    pixMem := s.pixMem.fill s.draws (List.range' (2 * s.count) (pixBytes - 2 * s.count))
    draws := s.draws + pixBytes }

/-- The byte cursor set to an offset (10_state.md R35). -/
def State.moveTo (k : Nat) (s : State) : State := { s with pos := k }

/-- The result an abort reports (60_exceptions.md R240, 43_format_sniffer.md R212). -/
def abortResult (sniffing : Bool) (e : Code) (sec : Sec) : Result :=
  { err := abortErr sniffing e, accept := false, trailing := false, code := e, sec := sec, outLen := 0 }

/-- TAKING AN ABORT, `raise E(section, at)` (00_scope.md R15, 60_exceptions.md R240): `pos` moves to the failing item,
and the command completes with the error, or in SNIFF with a reject. After an aborted DECODE the rest of PIX is free. -/
def State.raise (e : Code) (sec : Sec) (at_ : Nat) (s : State) : State :=
  let loosened := if s.cmd = cmdDecode then (s.moveTo at_).loosePixels else s.moveTo at_
  loosened.complete (abortResult s.sniffing e sec)

end Sys2Proof.Machine
end

