-- ==== Sys2Proof/Machine/Operands.lean ====
section
/-!
DEFINITION. The operand forms: colour words (40_table_codecs.md R111), table entries named by a 6-bit index, run
lengths (30_encoding.md R89), flip bits (R124), the column of a pixel (00_scope.md R17), and the encoder's inputs, the
palette and the index grid (42_pixel_encoder.md R183).
-/

namespace Sys2Proof.Machine

open Sys2Proof

/-- `color(w) = w & 0x7FFF` (40_table_codecs.md R111). -/
def colour (w : Half) : Colour := w.setWidth 15

/-- The colour word of a colour, bit 15 = 0 (40_table_codecs.md R111). -/
def colourWord (c : Colour) : Half := c.setWidth 16

/-- Entry `i` of a table of 64 colours; the index is used as it stands (30_encoding.md R89). -/
def entry (t : Vector Colour 64) (i : BitVec 6) : Colour := t[i.toNat]'i.isLt

/-- The number of pixels of a RUN (30_encoding.md R89). -/
def runLength (r : Byte) : Nat := r.toNat + 3

/-- Whether the next byte of the stream exists, `pos < len` (10_state.md R35). -/
def State.hasByte (s : State) (k : Nat) : Bool := k < s.len

/-- The column of the next pixel (00_scope.md R17). -/
def State.column (s : State) : Nat := s.count % 100

/-- FLIPBIT(i) (40_table_codecs.md R124). -/
def State.flipBit (s : State) (i : Nat) : Bool := (s.inByte (386 + i / 8)).getLsbD (i % 8)

/-- The two pixels of dictionary pair `j`, reversed when the flip bit is set (41_pixel_decoder.md R152). -/
def State.pair (s : State) (j : BitVec 6) (flip : Bool) : List Colour :=
  if flip then [entry s.dr j, entry s.dl j] else [entry s.dl j, entry s.dr j]

/-- `PAL[k] & 0x7FFF` (42_pixel_encoder.md R183). -/
def State.palColour (s : State) (k : Nat) : Colour := colour (s.palMem.readHalf (2 * k))

/-- `IDX[k]` (10_state.md R46). -/
def State.index (s : State) (k : Nat) : Nat := (s.idxMem.read k).toNat

end Sys2Proof.Machine
end

