-- ==== Sys2Proof/Machine/Encoder.lean ====
section
/-!
DEFINITION. What ENCODE computes from PAL_COUNT, PAL and IDX (42_pixel_encoder.md R182 to R196): the validation, the
walk of a row, the dictionary selection, the flip bits and the token bytes, and the byte images of the sections it
writes (40_table_codecs.md R113, R119, R125).
-/

namespace Sys2Proof.Machine

open Sys2Proof

/-- The first number among `k, k + 1, …, k + n - 1` with a property. -/
def firstFrom (p : Nat → Bool) : Nat → Nat → Option Nat
  | 0, _ => none
  | n + 1, k => if p k then some k else firstFrom p n (k + 1)

/-- VALIDATE (R182): the pixel an UNSUPPORTED_RASTER names, none where the input passes. -/
def State.badPixel (s : State) : Option Nat :=
  let p := s.palCount.toNat
  if p = 0 ∨ 64 < p then some 0 else firstFrom (fun k => decide (p ≤ s.index k)) 5000 0

/-- A token of the walk (R189): palette indices, or the two colours of a pair. -/
inductive WalkToken where
  | single (p : Nat)
  | double (p : Nat)
  | run (p n : Nat)
  | pair (a b : Colour)
deriving DecidableEq, Repr

/-- How many entries at the front of a list equal a value. -/
def leading (p : Nat) : List Nat → Nat
  | [] => 0
  | q :: rest => if q = p then leading p rest + 1 else 0

/-- WALK over what is left of one row (R189). `runlen` is `leading + 1` (R187), never past the row's end since the list
holds one row. `pc` gives a palette colour, `allow` the predicate on the pair of colours, the number the fuel. -/
def walkRow (pc : Nat → Colour) (allow : Colour → Colour → Bool) : Nat → List Nat → List WalkToken
  | 0, _ => []
  | _ + 1, [] => []
  | fuel + 1, p :: rest =>
    let n := leading p rest + 1
    if 3 ≤ n then .run p n :: walkRow pc allow fuel (rest.drop (n - 1))
    else if n = 2 then .double p :: walkRow pc allow fuel (rest.drop 1)
    else
      match rest with
      | [] => [.single p]
      | q :: rest' =>
        if allow (pc p) (pc q) then .pair (pc p) (pc q) :: walkRow pc allow fuel rest'
        else .single p :: walkRow pc allow fuel rest

/-- Row `y` of the index grid (00_scope.md R17). -/
def State.gridRow (s : State) (y : Nat) : List Nat := (List.range' (100 * y) 100).map s.index

/-- WALK over the whole image (R189). -/
def State.walk (allow : Colour → Colour → Bool) (s : State) : List WalkToken :=
  (List.range 50).flatMap fun y => walkRow s.palColour allow 100 (s.gridRow y)

/-- `key(a, b)`, the smaller colour first (R188). -/
def pairKey (a b : Colour) : Colour × Colour := if b < a then (b, a) else (a, b)

/-- `flip(a, b)` (R188). -/
def pairFlip (a b : Colour) : Bool := decide (b < a)

/-- The pair keys of a walk, in order. -/
def walkKeys : List WalkToken → List (Colour × Colour)
  | [] => []
  | .pair a b :: rest => pairKey a b :: walkKeys rest
  | _ :: rest => walkKeys rest

/-- The distinct keys, each at its first occurrence (R190). -/
def distinctKeys : List (Colour × Colour) → List (Colour × Colour)
  | [] => []
  | q :: rest => q :: (distinctKeys rest).filter (fun r => r ≠ q)

/-- Put a key with its count before the first key of a count no higher. -/
def rankInsert (x : (Colour × Colour) × Nat) : List ((Colour × Colour) × Nat) → List ((Colour × Colour) × Nat)
  | [] => [x]
  | y :: ys => if y.2 ≤ x.2 then x :: y :: ys else y :: rankInsert x ys

/-- The keys with their counts, by count descending, earlier first occurrence first among equals (R190). -/
def rankKeys (keys : List (Colour × Colour)) : List ((Colour × Colour) × Nat) :=
  ((distinctKeys keys).map fun q => (q, keys.count q)).foldr rankInsert []

/-- SEL, the selected dictionary: at most 64 keys (R190). -/
def selectKeys (keys : List (Colour × Colour)) : List (Colour × Colour) := ((rankKeys keys).take 64).map Prod.fst

/-- The byte image of one walk token (R191); a pair is its DIC token. -/
def walkBytes (sel : List (Colour × Colour)) : WalkToken → List Byte
  | .single p => Sys2Proof.encode (.sgl (BitVec.ofNat 6 p))
  | .double p => Sys2Proof.encode (.dbl (BitVec.ofNat 6 p))
  | .run p n => Sys2Proof.encode (.run (BitVec.ofNat 6 p) (BitVec.ofNat 8 (n - 3)))
  | .pair a b => Sys2Proof.encode (.dic (BitVec.ofNat 6 (sel.idxOf (pairKey a b))))

/-- The flip bits of a walk, in order (R191). -/
def walkFlips : List WalkToken → List Bool
  | [] => []
  | .pair a b :: rest => pairFlip a b :: walkFlips rest
  | _ :: rest => walkFlips rest

/-- SEL of the greedy encoder: pass 1 walks with every pair allowed (R190). -/
def State.greedyKeys (s : State) : List (Colour × Colour) := selectKeys (walkKeys (s.walk fun _ _ => true))

/-- Pass 2 of the greedy encoder (R191). -/
def State.greedyPlan (s : State) : EncodePlan :=
  let sel := s.greedyKeys
  let tokens := s.walk fun a b => decide (pairKey a b ∈ sel)
  { sel := sel, flips := walkFlips tokens, body := tokens.flatMap (walkBytes sel) }

/-- The degenerate encoder: no pairs, one SGL per pixel (R184). -/
def State.degeneratePlan (s : State) : EncodePlan :=
  { sel := [], flips := [],
    body := (List.range 5000).flatMap fun k => Sys2Proof.encode (.sgl (BitVec.ofNat 6 (s.index k))) }

/-- The plan of the latched mode (R180, R181). -/
def State.makePlan (s : State) : EncodePlan := if s.mode then s.greedyPlan else s.degeneratePlan

/-- The color-table section: the palette's colours, then zero entries (40_table_codecs.md R113). -/
def State.tableBytes (s : State) : List Byte :=
  (List.range 64).flatMap fun k =>
    bytesOfHalf (if k < s.palCount.toNat then colourWord (s.palColour k) else 0#16)

/-- The dictionary section: the selected pairs, then zero entries (40_table_codecs.md R119). -/
def dictBytes (sel : List (Colour × Colour)) : List Byte :=
  (List.range 64).flatMap fun j =>
    let q := sel.getD j (0#15, 0#15)
    bytesOfHalf (colourWord q.1) ++ bytesOfHalf (colourWord q.2)

/-- The number of flip bytes, `ceil(nd / 8)` (40_table_codecs.md R125). -/
def flipByteCount (flips : List Bool) : Nat := (flips.length + 7) / 8

/-- Flip byte `b`, least significant bit first, unused bits 0 (40_table_codecs.md R125). -/
def flipByte (flips : List Bool) (b : Nat) : Byte :=
  (List.range 8).foldl (fun acc t => acc ||| (BitVec.ofBool (flips.getD (8 * b + t) false)).setWidth 8 <<< t) 0#8

/-- The flip-bit section (40_table_codecs.md R125). -/
def flipBytes (flips : List Bool) : List Byte := (List.range (flipByteCount flips)).map (flipByte flips)

/-- L as ENCODE writes it (40_table_codecs.md R125). -/
def flipLength (flips : List Bool) : Half := BitVec.ofNat 16 (2 + flipByteCount flips)

end Sys2Proof.Machine
end

