-- ==== Sys2Proof/Machine/Commands.lean ====
section
/-!
DEFINITION. The meanings of the four START values: the START actions of 10_state.md R48, then the checks each command
makes before it touches a section (60_exceptions.md R236, 42_pixel_encoder.md R182). While BUSY a START is ignored
(10_state.md R49). The command's sections are run by the engine's later steps (Machine/Engine.lean, log 2).
-/

namespace Sys2Proof.Machine

open Sys2Proof

/-- A host's START write: ignored while BUSY (10_state.md R49), else START (R48) and what follows it. -/
def State.startCommand (cmd : BitVec 3) (mode strict : Bool) (andThen : State → State) (s : State) : State :=
  let taken := s.nextEvent
  if taken.busy then taken else andThen (taken.start cmd mode strict)

/-- The first section is next (10_state.md R41). -/
def State.enterSections (s : State) : State := { s with phase := .ct }

/-- BAD_LENGTH at START, for DECODE and SNIFF (60_exceptions.md R236). -/
def State.checkLength (s : State) : State :=
  if s.params.inCap < s.len then s.raise .badLength .input 0 else s.enterSections

/-- VALIDATE, for ENCODE (42_pixel_encoder.md R182): `count` names the offending pixel. Where the input passes, what the
command writes is computed from it (R180, R184, R186; log 20). -/
def State.checkRaster (s : State) : State :=
  match s.badPixel with
  | some k => { s with count := k }.raise .unsupportedRaster .input 0
  | none => { s with plan := s.makePlan }.enterSections

/-- DECODE (41_pixel_decoder.md R140). -/
def execDecode (mode strict : Bool) (s : State) : Step :=
  .next (s.startCommand cmdDecode mode strict State.checkLength)

/-- ENCODE (42_pixel_encoder.md R181). -/
def execEncode (mode strict : Bool) (s : State) : Step :=
  .next (s.startCommand cmdEncode mode strict State.checkRaster)

/-- SNIFF (43_format_sniffer.md R211). -/
def execSniff (mode strict : Bool) (s : State) : Step :=
  .next (s.startCommand cmdSniff mode strict State.checkLength)

/-- A START with a reserved CMD (60_exceptions.md R236). -/
def execBadCommand (cmd : BitVec 3) (mode strict : Bool) (s : State) : Step :=
  .next (s.startCommand cmd mode strict (State.raise .badCommand .input 0))

end Sys2Proof.Machine
end

