-- ==== Sys2Proof/Machine/Tokens.lean ====
section
/-!
DEFINITION. The meanings of the four tokens. In DECODE each is its rule of 41_pixel_decoder.md (R150 to R153); in SNIFF
the same tokens are counted (43_format_sniffer.md R213). The token starts at `pos`; its bytes have been fetched.
-/

namespace Sys2Proof.Machine

open Sys2Proof

/-- A token that may execute: its pixels are emitted and `pos` moves past its bytes (41_pixel_decoder.md R143, R146). -/
def State.paint (size : Nat) (pixels : List Colour) (s : State) : State :=
  { s.emitAll pixels with pos := s.pos + size }

/-- The row-boundary rule (41_pixel_decoder.md R145): a token whose pixels do not fit in its row aborts first. -/
def State.paintInRow (size : Nat) (pixels : List Colour) (s : State) : State :=
  if 100 < s.column + pixels.length then s.raise .rowOverflow .pixels s.pos else s.paint size pixels

/-- COUNT_STEP after its fetch (43_format_sniffer.md R213): `n` pixels, `d` dictionary tokens. -/
def State.countToken (size n d : Nat) (s : State) : State :=
  if 5000 < s.count + n then s.raise .pixelCountMismatch .pixels s.pos
  else { s with pos := s.pos + size, count := s.count + n, fcur := s.fcur + d }

/-- SGL (R150): one pixel, which always fits its row. -/
def execSgl (i : BitVec 6) (s : State) : Step :=
  .next (if s.sniffing then s.countToken 1 1 0 else s.paint 1 [entry s.ct i])

/-- DBL (R151). -/
def execDbl (i : BitVec 6) (s : State) : Step :=
  .next (if s.sniffing then s.countToken 1 2 0 else s.paintInRow 1 [entry s.ct i, entry s.ct i])

/-- The body of DIC in DECODE (R152): the row check, then the flip supply, then the pair. -/
def State.paintPair (j : BitVec 6) (s : State) : State :=
  if 100 < s.column + 2 then s.raise .rowOverflow .pixels s.pos
  else if 8 * s.nfb ≤ s.fcur then s.raise .flipOverrun .pixels s.pos
  else { s.paint 1 (s.pair j (s.flipBit s.fcur)) with fcur := s.fcur + 1 }

/-- DIC (R152). -/
def execDic (j : BitVec 6) (s : State) : Step :=
  .next (if s.sniffing then s.countToken 1 2 1 else s.paintPair j)

/-- RUN (R153), its run byte fetched. -/
def execRun (i : BitVec 6) (r : Byte) (s : State) : Step :=
  .next (if s.sniffing then s.countToken 2 (runLength r) 0
    else s.paintInRow 2 (List.replicate (runLength r) (entry s.ct i)))

end Sys2Proof.Machine
end

