-- ==== Sys2Proof/Machine/Dispatch.lean ====
section
/-! DEFINITION. One arm per instruction, each one direct call of its meaning. -/

namespace Sys2Proof.Machine

open Sys2Proof

def exec (i : Instr) (s : State) : Host.Outcome State Fault Refusal :=
  match i with
  | .sgl x => Sys2Proof.Machine.execSgl x s
  | .dbl x => Sys2Proof.Machine.execDbl x s
  | .dic x => Sys2Proof.Machine.execDic x s
  | .run x r => Sys2Proof.Machine.execRun x r s
  | .decode mode strict => Sys2Proof.Machine.execDecode mode strict s
  | .encode mode strict => Sys2Proof.Machine.execEncode mode strict s
  | .sniff mode strict => Sys2Proof.Machine.execSniff mode strict s
  | .badCommand cmd mode strict => Sys2Proof.Machine.execBadCommand cmd mode strict s

end Sys2Proof.Machine
end

