-- ==== Sys2Proof/Machine/Engine.lean ====
section
/-!
DEFINITION. The engine's steps after START: the sections of DECODE and SNIFF (40_table_codecs.md R112, R118, R120,
R122; 43_format_sniffer.md R211), the sections of ENCODE (40_table_codecs.md R113, R119, R125; 42_pixel_encoder.md R184,
R191), the token step (41_pixel_decoder.md R143, 43_format_sniffer.md R213), and the end of a command. One step is one
section or one token (log 2).
-/

namespace Sys2Proof.Machine

open Sys2Proof

/-- CT_READ in DECODE (R112); in SNIFF the section is skipped and no entry loaded (R211, R214). -/
def State.ctRead (s : State) : State :=
  if s.len < 128 then s.raise .shortRead .ct 0
  else if s.sniffing then { s with pos := 128, phase := .dict }
  else { s with ct := Vector.ofFn (fun k => colour (s.inHalf (2 * k.val))), pos := 128, phase := .dict }

/-- DICT_READ in DECODE (R118); in SNIFF the section is skipped (R211, R214). -/
def State.dictRead (s : State) : State :=
  if s.len < 384 then s.raise .shortRead .dict 128
  else if s.sniffing then { s with pos := 384, phase := .flen }
  else
    { s with
      dl := Vector.ofFn (fun j => colour (s.inHalf (128 + 4 * j.val)))
      dr := Vector.ofFn (fun j => colour (s.inHalf (128 + 4 * j.val + 2)))
      pos := 384
      phase := .flen }

/-- FLEN_READ (R120): L is kept even when it is illegal. -/
def State.flenRead (s : State) : State :=
  if s.len < 386 then s.raise .shortRead .flen 384
  else
    let l := s.inHalf 384
    if l.toNat < 2 then { s with flipL := l }.raise .badFlipLength .flen 384
    else { s with flipL := l, nfb := l.toNat - 2, pos := 386, phase := .fbits }

/-- FBITS_READ (R122): the flip bytes are skipped, to be read in place. -/
def State.fbitsRead (s : State) : State :=
  if s.len < 386 + s.nfb then s.raise .shortRead .fbits 386
  else { s with pos := 386 + s.nfb, phase := .pixels }

/-- CT_WRITE (R113). -/
def State.ctWrite (s : State) : State := { s.putOut 0 s.tableBytes with pos := 128, phase := .dict }

/-- DICT_WRITE (R119). -/
def State.dictWrite (s : State) : State := { s.putOut 128 (dictBytes s.plan.sel) with pos := 384, phase := .flen }

/-- The length field of FLIP_WRITE (R125). -/
def State.flenWrite (s : State) : State :=
  { s.putOut 384 (bytesOfHalf (flipLength s.plan.flips)) with flipL := flipLength s.plan.flips, phase := .fbits }

/-- The flip bytes of FLIP_WRITE (R125). -/
def State.fbitsWrite (s : State) : State :=
  { s.putOut 386 (flipBytes s.plan.flips) with pos := 386 + flipByteCount s.plan.flips, phase := .pixels }

/-- The token bytes of ENCODE (R184, R191). -/
def State.bodyWrite (s : State) : State :=
  { s.putOut s.pos s.plan.body with
    pos := s.pos + s.plan.body.length, fcur := s.plan.flips.length, phase := .ending }

/-- The bytes of IN a token at `pos` may read: none at or past `len` (10_state.md R35, 20_memory.md R69). -/
def State.tokenBytes (s : State) : List Byte :=
  if s.hasByte s.pos then
    if s.hasByte (s.pos + 1) then [s.inByte s.pos, s.inByte (s.pos + 1)] else [s.inByte s.pos]
  else []

/-- TOKEN_STEP of DECODE (41_pixel_decoder.md R143) and COUNT_STEP of SNIFF (43_format_sniffer.md R213): fetch, then
the token's meaning; the loop ends at 5000 pixels. -/
def State.tokenStep (s : State) : Step :=
  if s.count < 5000 then
    match Sys2Proof.decode .stream s.tokenBytes with
    | .ok i _ => exec i s
    | .rejected .runByteMissing => .next (s.raise .shortRead .pixels s.pos)
    | .rejected _ => .next (s.raise .pixelCountMismatch .pixels s.pos)
  else .next { s with phase := .ending }

/-- The end of ENCODE (42_pixel_encoder.md R181). -/
def State.finishEncode (s : State) : State :=
  { s with count := 5000 }.complete
    { err := false, accept := false, trailing := false, code := .none, sec := .none, outLen := s.pos }

/-- The end of SNIFF (43_format_sniffer.md R211). -/
def State.finishSniff (s : State) : State :=
  if s.strict ∧ s.pos ≠ s.len then s.raise .trailingData .ending s.pos
  else s.complete { err := false, accept := true, trailing := false, code := .none, sec := .none, outLen := 0 }

/-- The end of DECODE (41_pixel_decoder.md R140, R163). -/
def State.finishDecode (s : State) : State :=
  s.complete
    { err := false, accept := false, trailing := decide (s.pos < s.len), code := .none, sec := .none, outLen := 0 }

/-- One step of the engine: nothing while IDLE (60_exceptions.md R252), else the section of the phase (10_state.md
R41). -/
def State.engineStep (s : State) : Step :=
  match s.phase with
  | .idle => .next s
  | .ct => .next (if s.encoding then s.ctWrite else s.ctRead)
  | .dict => .next (if s.encoding then s.dictWrite else s.dictRead)
  | .flen => .next (if s.encoding then s.flenWrite else s.flenRead)
  | .fbits => .next (if s.encoding then s.fbitsWrite else s.fbitsRead)
  | .pixels => if s.encoding then .next s.bodyWrite else s.tokenStep
  | .ending =>
    .next (if s.encoding then s.finishEncode else if s.sniffing then s.finishSniff else s.finishDecode)

end Sys2Proof.Machine
end

