-- ==== Sys2Proof/Machine/HostPort.lean ====
section
/-!
DEFINITION. The host's side: the address map (20_memory.md R66), reads and writes of the register window and of the
memory windows (R64, R67, R68, R70, R71), and the reset event (70_reset_and_hazards.md R260). The one write this file
does not perform is START, which is an instruction (Machine/Commands.lean).
-/

namespace Sys2Proof.Machine

open Sys2Proof

/-- The number of bytes of an access (20_memory.md R67). -/
def Width.bytes : Width → Nat
  | .w8 => 1
  | .w16 => 2
  | .w32 => 4

/-- The size of a window in bytes (20_memory.md R66). -/
def Window.size (p : Params) : Window → Nat
  | .pal => 128
  | .idx => 5000
  | .pix => 10000
  | .out => p.outCap
  | .inp => p.inCap

/-- The first host address of a window (20_memory.md R66). -/
def Window.base : Window → Nat
  | .pal => 0x1000
  | .idx => 0x2000
  | .pix => 0x4000
  | .out => 0x8000
  | .inp => 0x10000

/-- Whether a host address lies in a window. -/
def Window.holds (p : Params) (a : Nat) (w : Window) : Bool := w.base ≤ a && a < w.base + w.size p

/-- The memory window and offset of a host address; none for REG and for unmapped addresses (20_memory.md R66, R68). -/
def memoryAt (p : Params) (a : Nat) : Option (Window × Nat) :=
  ([Window.pal, .idx, .pix, .out, .inp].find? (Window.holds p a)).map fun w => (w, a - w.base)

/-- The memory window and offset of the byte at address `a` of an access that starts at `first`: an access that starts in
a window reaches no other, and what runs past the window's end is unmapped (20_memory.md R67). A byte of an access that
starts at an unmapped address is looked up by itself (log 24). -/
def accessAt (p : Params) (first a : Nat) : Option (Window × Nat) :=
  match memoryAt p first with
  | none => memoryAt p a
  | some (w, _) => (memoryAt p a).filter fun c => c.1 = w

/-- The memory of a window. -/
def State.memoryOf (s : State) : Window → Memory
  | .pal => s.palMem
  | .idx => s.idxMem
  | .pix => s.pixMem
  | .out => s.outMem
  | .inp => s.inMem

/-- Write one byte of a window's memory. -/
def State.putByte (s : State) (w : Window) (o : Nat) (b : Byte) : State :=
  match w with
  | .pal => { s with palMem := s.palMem.write o b }
  | .idx => { s with idxMem := s.idxMem.write o b }
  | .pix => { s with pixMem := s.pixMem.write o b }
  | .out => { s with outMem := s.outMem.write o b }
  | .inp => { s with inMem := s.inMem.write o b }

/-- PIX and OUT hold results; PAL, IDX and IN hold inputs (20_memory.md R71). -/
def Window.isResult : Window → Bool
  | .pix => true
  | .out => true
  | .pal => false
  | .idx => false
  | .inp => false

/-- A host read of one byte of the memory windows, in an access that starts at `first`: 0 where unmapped (R67, R68), a free
value in PIX and OUT while BUSY (R71, 93_implementation_defined.md U3, log 8). -/
def State.readByte (s : State) (first a : Nat) : Byte × State :=
  match accessAt s.params first a with
  | none => (0x00#8, s)
  | some (w, o) =>
    if s.busy && w.isResult then (Config.freeByte s.draws, { s with draws := s.draws + 1 })
    else ((s.memoryOf w).read o, s)

/-- A host read of `n` bytes from `a` on, of an access that starts at `first`, in increasing address order, assembled
little-endian (R67). -/
def State.readBytes (s : State) (first a : Nat) : Nat → Nat × State
  | 0 => (0, s)
  | n + 1 =>
    let low := s.readByte first a
    let high := low.2.readBytes first (a + 1) n
    (low.1.toNat + 256 * high.1, high.2)

/-- A register that holds a result: a free value while BUSY (R71, 93_implementation_defined.md U3, log 8). -/
def State.resultRegister (s : State) (held : Word) (bits : Nat) : Word × State :=
  if s.busy then (((Config.freeWord s.draws).setWidth bits).setWidth 32, { s with draws := s.draws + 1 })
  else (held, s)

/-- A 32-bit read of the register at an offset (10_state.md R21); reserved offsets read 0 (R31). -/
def State.readRegister (s : State) (offset : Nat) : Word × State :=
  match offset with
  | 0x00 => (s.ctrl, s)
  | 0x04 => (s.status, s)
  | 0x08 => (s.inLen, s)
  | 0x0C => (s.palCount, s)
  | 0x10 => s.resultRegister s.outLen 32
  | 0x14 => s.resultRegister s.byteCursor 32
  | 0x18 => s.resultRegister s.pixCount 32
  | 0x1C => s.resultRegister s.flipCursor 32
  | 0x20 => s.resultRegister s.flipLen 16
  | _ => (0#32, s)

/-- An access lies in REG (20_memory.md R66). -/
def inRegisters (a : Word) : Bool := a < 0x40#32

/-- The only form of access REG accepts (20_memory.md R67). -/
def registerAccess (w : Width) (a : Word) : Bool := w == .w32 && a.toNat % 4 == 0

/-- The value a host read returns, and the state after it (20_memory.md R67). -/
def State.readPort (s : State) (w : Width) (a : Word) : Word × State :=
  if inRegisters a then
    if registerAccess w a then s.readRegister a.toNat else (0#32, s)
  else
    let r := s.readBytes a.toNat a.toNat w.bytes
    (BitVec.ofNat 32 r.1, r.2)

/-- A host read: the value goes to `replies` (log 15). -/
def State.hostRead (w : Width) (a : Word) (s : State) : State :=
  let r := s.readPort w a
  { r.2 with replies := r.1 :: r.2.replies }

/-- A host write of one byte of the memory windows, in an access that starts at `first`: ignored where unmapped (R67,
R68). While BUSY, a byte of PIX or OUT is noted as unspecified after completion (R71, log 9), and a byte of PAL, IDX or
IN is written and the running command noted as tainted (70_reset_and_hazards.md R266, log 11). -/
def State.writeByte (s : State) (first a : Nat) (b : Byte) : State :=
  match accessAt s.params first a with
  | none => s
  | some (w, o) =>
    if s.busy then
      match w with
      | .pix => { s with dirtyPix := o :: s.dirtyPix }
      | .out => { s with dirtyOut := o :: s.dirtyOut }
      | .pal => { s.putByte .pal o b with tainted := true }
      | .idx => { s.putByte .idx o b with tainted := true }
      | .inp => { s.putByte .inp o b with tainted := true }
    else s.putByte w o b

/-- A host write of bytes from `a` on, of an access that starts at `first`, in increasing address order (R67). -/
def State.writeBytes (s : State) (first a : Nat) : List Byte → State
  | [] => s
  | b :: bs => (s.writeByte first a b).writeBytes first (a + 1) bs

/-- A 32-bit write of the register at an offset, other than START: ignored while BUSY (10_state.md R49), by read-only
and reserved registers (R21, R31) and in reserved bits (R22, R25). -/
def State.writeRegister (s : State) (offset : Nat) (v : Word) : State :=
  if s.busy then s
  else
    match offset with
    | 0x00 => { s with ctrl := ctrlWord (ctrlCmd v) (ctrlMode v) (ctrlStrict v) }
    | 0x08 => { s with inLen := v }
    | 0x0C => { s with palCount := (v.setWidth 7).setWidth 32 }
    | _ => s

/-- A host write other than START (20_memory.md R67). -/
def State.hostWrite (w : Width) (a v : Word) (s : State) : State :=
  if inRegisters a then
    if registerAccess w a then s.writeRegister a.toNat v else s
  else s.writeBytes a.toNat a.toNat ((bytesOfWord v).take w.bytes)

/-- The reset event (70_reset_and_hazards.md R260 to R263): every register and working value as after reset, the
memories back at their model-chosen contents (log 5). The host's later accesses, what it has read, the parameters and
the index of free values are not the core's, and stay. -/
def State.applyReset (s : State) : State :=
  { State.reset with params := s.params, hostQ := s.hostQ, replies := s.replies, draws := s.draws }

/-- The START a host access asks for, if it is one: a 32-bit write to CTRL with bit 31 = 1 (10_state.md R48). -/
def HostEvent.startRequest : HostEvent → Option Instr
  | .write .w32 a v => if a = 0#32 then decodeCommand v else none
  | _ => none

end Sys2Proof.Machine
end

