-- ==== Sys2Proof/Machine/Step.lean ====
section
/-!
DEFINITION. One step of the machine: the host's next access, or where the host is silent one step of the engine
(00_scope.md R19, 20_memory.md R72, log 1); and where a step fetches its instruction.
-/

namespace Sys2Proof.Machine

open Sys2Proof

/-- One step. -/
def step (s : State) : Host.Outcome State Fault Refusal :=
  match s.hostQ with
  | [] => s.engineStep
  | .wait :: _ => s.nextEvent.engineStep
  | .reset :: _ => .next s.nextEvent.applyReset
  | .read w a :: _ => .next (s.nextEvent.hostRead w a)
  | .write w a v :: _ =>
    match (HostEvent.write w a v).startRequest with
    | some i => exec i s
    | none => .next (s.nextEvent.hostWrite w a v)

/-- The engine stands before a token of a DECODE or SNIFF. -/
def State.atToken (s : State) : Bool :=
  s.phase == .pixels && (s.cmd == cmdDecode || s.cmd == cmdSniff) && decide (s.count < 5000)

/-- A DECODE that has read its tables and stands before its first token, its stream loaded from outside the machine:
flip length 3, one flip byte 0 (log 3). -/
def State.openStream (s : State) : State :=
  { s with
    status := busyStatus
    cmd := cmdDecode
    phase := .pixels
    inMem := s.inMem.writeBytes 384 [0x03#8, 0x00#8, 0x00#8]
    flipL := 3#16
    nfb := 1
    pos := 387
    len := 387
    count := 0
    fcur := 0 }

/-- Store an instruction where the next step fetches it (log 3). A token goes to IN at `pos`, the host silent; a START
value becomes the host's next write to CTRL, the core idle. -/
def State.withFetchWord (s : State) (nbits w : Nat) : State :=
  if nbits ≤ 16 then
    let t := if s.atToken then s else s.openStream
    { t with
      inMem := t.inMem.writeBytes t.pos [tableByte w 0, tableByte w 1]
      len := max t.len (t.pos + 2)
      hostQ := [] }
  else
    { s with
      status := if s.busy then 0#32 else s.status
      phase := .idle
      hostQ := .write .w32 0#32 (BitVec.ofNat 32 w) :: s.hostQ }

end Sys2Proof.Machine
end

