-- ==== Sys2Proof/Safety.lean ====
section
/-!
DEFINITION. What the statements call a good state: the canonical form of the memories, the reserved bits of the
registers, the ranges of the working registers, and the absence of a host hazard (70_reset_and_hazards.md R266).
-/

namespace Sys2Proof.Machine

open Sys2Proof

/-- Every memory is in its canonical form. -/
abbrev State.memoriesCanonical (s : State) : Prop :=
  s.inMem.wf ∧ s.outMem.wf ∧ s.palMem.wf ∧ s.idxMem.wf ∧ s.pixMem.wf

/-- No memory has an entry outside its window (20_memory.md R66). -/
abbrev State.memoriesInWindows (s : State) : Prop :=
  s.inMem.within s.params.inCap ∧ s.outMem.within s.params.outCap ∧ s.palMem.within 128 ∧ s.idxMem.within 5000 ∧
    s.pixMem.within pixBytes

/-- The bits of STATUS that read 0 (10_state.md R23). -/
def statusReserved : Word := 0xFFFF80E0#32

/-- Reserved register bits read 0 (10_state.md R31). -/
abbrev State.reservedBitsZero (s : State) : Prop :=
  s.ctrl.toNat < 32 ∧ s.status &&& statusReserved = 0#32 ∧ s.palCount.toNat < 128 ∧ s.flipLen.toNat < 65536

/-- BUSY and the phase agree (10_state.md R41), and STATUS reads 0x0000_0001 while BUSY (20_memory.md R71). -/
abbrev State.busyMatchesPhase (s : State) : Prop :=
  (s.busy = true ↔ s.phase ≠ .idle) ∧ (s.busy = true → s.status = busyStatus)

/-- The stream bytes DECODE and SNIFF have found present before a section (40_table_codecs.md R112 to R122). -/
def State.lengthSeen (s : State) : Nat :=
  match s.phase with
  | .dict => 128
  | .flen => 384
  | .fbits => 386
  | .pixels => 386 + s.nfb
  | _ => 0

/-- The working registers keep the ranges the spec gives them (10_state.md R35, R36, R37): `pos` never exceeds `len`,
`count` is at most 5000, and a dictionary token is two pixels. -/
abbrev State.cursorsInRange (s : State) : Prop :=
  s.len < 2 ^ 32 ∧ s.count ≤ 5000 ∧
    (s.encoding = false → s.pos ≤ s.len ∧ s.lengthSeen ≤ s.len ∧ 2 * s.fcur ≤ s.count)

/-- What a running ENCODE will write fits OUT (42_pixel_encoder.md R193): the offsets are those of the sections, and the
flip bytes and token bytes together are at most 5000. -/
abbrev State.encodeFits (s : State) : Prop :=
  s.encoding = true → s.phase ≠ .idle →
    flipByteCount s.plan.flips + s.plan.body.length ≤ 5000 ∧
      (s.phase = .pixels → s.pos = 386 + flipByteCount s.plan.flips)

/-- No host hazard is pending on the running command (logs 9 and 11). -/
abbrev State.undisturbed (s : State) : Prop := s.tainted = false ∧ s.dirtyPix = [] ∧ s.dirtyOut = []

end Sys2Proof.Machine
end

