-- ==== Sys2Proof/Certificates/Slice0/Obligations.lean ====
section
/-!
DEFINITION. The statements about the model, for the provers. Rules R<n> are those of spec/; the file of a rule is named
in OBLIGATIONS.json. Where a statement rests on a choice of the model, its docstring names the log entry.
-/

open Sys2Proof Sys2Proof.Machine

/-! Words the statements use. -/

/-- What the host sees after `raise E(section, at)` with no hazard pending (R235, R240): the core idle, STATUS with the
error (or in SNIFF the reject), the diagnostic registers, OUT_LEN 0; inputs, OUT and the pixels already emitted as they
were, and all of PIX outside DECODE. -/
def AbortReported (s t : State) (e : Code) (c : Sec) (at_ : Nat) : Prop :=
  t.phase = .idle ∧
  t.status = statusWord false true (abortErr s.sniffing e) false false e.number c.number ∧
  t.byteCursor = BitVec.ofNat 32 at_ ∧ t.pixCount = BitVec.ofNat 32 s.count ∧
  t.flipCursor = BitVec.ofNat 32 s.fcur ∧ t.flipLen = s.flipL.setWidth 32 ∧ t.outLen = 0#32 ∧
  t.ctrl = s.ctrl ∧ t.inLen = s.inLen ∧ t.palCount = s.palCount ∧
  t.inMem = s.inMem ∧ t.outMem = s.outMem ∧ t.palMem = s.palMem ∧ t.idxMem = s.idxMem ∧
  (∀ a, a < 2 * s.count → t.pixMem.read a = s.pixMem.read a) ∧
  (s.cmd ≠ cmdDecode → t.pixMem = s.pixMem)

/-- A token wrote `n` pixels from entry `count` on, moved `count`, `pos` and `fcur`, and changed nothing else: every other
field, and every byte of PIX outside those entries (R142, R146). -/
def Painted (s t : State) (size n d : Nat) : Prop :=
  t = { s with pixMem := t.pixMem, count := s.count + n, pos := s.pos + size, fcur := s.fcur + d } ∧
  ∀ a, a < 2 * s.count ∨ 2 * (s.count + n) ≤ a → t.pixMem.read a = s.pixMem.read a

/-- Size in bytes, pixels and dictionary tokens of a token (R88, R93). -/
def tokenYield : Instr → Nat × Nat × Nat
  | .sgl _ => (1, 1, 0)
  | .dbl _ => (1, 2, 0)
  | .dic _ => (1, 2, 1)
  | .run _ r => (2, r.toNat + 3, 0)
  | .decode _ _ => (4, 0, 0)
  | .encode _ _ => (4, 0, 0)
  | .sniff _ _ => (4, 0, 0)
  | .badCommand _ _ _ => (4, 0, 0)

/-- The number a 16-bit little-endian field of IN has (R61). -/
def inField (s : State) (a : Nat) : Nat := (s.inMem.read a).toNat + 256 * (s.inMem.read (a + 1)).toNat

/-- The pixels a walk token stands for (R189). -/
def walkPixels (pc : Nat → Colour) : WalkToken → List Colour
  | .single p => [pc p]
  | .double p => [pc p, pc p]
  | .run p n => List.replicate n (pc p)
  | .pair a b => [a, b]

/-- The inputs ENCODE accepts (R182): PAL_COUNT in 1..64 and every index below it. -/
def RasterOk (s : State) : Prop :=
  1 ≤ s.palCount.toNat ∧ s.palCount.toNat ≤ 64 ∧ ∀ k, k < 5000 → (s.idxMem.read k).toNat < s.palCount.toNat

/-- START's own writes (R48). -/
def Started (s t : State) (cmd : BitVec 3) (mode strict : Bool) : Prop :=
  t.ctrl.toNat = cmd.toNat + 8 * mode.toNat + 16 * strict.toNat ∧
  t.cmd = cmd ∧ t.mode = mode ∧ t.strict = strict ∧ t.status = 1#32 ∧
  t.outLen = 0#32 ∧ t.byteCursor = 0#32 ∧ t.pixCount = 0#32 ∧ t.flipCursor = 0#32 ∧ t.flipLen = 0#32 ∧
  t.pos = 0 ∧ t.len = s.inLen.toNat ∧ t.count = 0 ∧ t.fcur = 0 ∧ t.flipL = 0#16

/-- What no START touches: the inputs, the memories, the tables, and the host's side but for the access taken. -/
def StartFrame (s t : State) : Prop :=
  t.inLen = s.inLen ∧ t.palCount = s.palCount ∧ t.ct = s.ct ∧ t.dl = s.dl ∧ t.dr = s.dr ∧ t.nfb = s.nfb ∧
  t.inMem = s.inMem ∧ t.outMem = s.outMem ∧ t.palMem = s.palMem ∧ t.idxMem = s.idxMem ∧ t.pixMem = s.pixMem ∧
  t.params = s.params ∧ t.hostQ = s.hostQ.tail ∧ t.replies = s.replies ∧ t.draws = s.draws ∧
  t.tainted = s.tainted ∧ t.dirtyPix = s.dirtyPix ∧ t.dirtyOut = s.dirtyOut

/-- Index `p` starts a run of exactly `n` at the front of what is left of a row: `runlen` of R187. -/
def RunAt (row : List Nat) (p n : Nat) : Prop :=
  1 ≤ n ∧ n ≤ row.length ∧ (∀ t, t < n → row[t]? = some p) ∧ row[n]? ≠ some p

/-- WALK over the whole image (R189): the tokens of its 50 rows of 100 indices, in order. -/
def imageWalk (s : State) (allow : Colour → Colour → Bool) : List WalkToken :=
  (List.range 50).flatMap fun y =>
    walkRow (fun k => (s.palMem.readHalf (2 * k)).setWidth 15) allow 100
      ((List.range 100).map fun c => (s.idxMem.read (100 * y + c)).toNat)

/-- An access of `n` bytes at address `a` performs offset `o` of window `x` (R67). -/
abbrev Performs (p : Params) (a n : Nat) (x : Window) (o : Nat) : Prop :=
  a ≤ x.base + o ∧ x.base + o < a + n ∧ accessAt p a (x.base + o) = some (x, o)

/-- How many of the first `n` bytes of an access at address `a` lie in PIX or OUT. -/
def resultBytes (p : Params) (a n : Nat) : Nat :=
  ((List.range n).filter fun i => (accessAt p a (a + i)).any fun c => c.1.isResult).length

/-! Encodings. -/

/-- Decoding an encoded well-formed instruction gives it back, and the bytes after it. -/
def Obligations.DecodeEncodeAgree : Prop :=
  ∀ (i : Instr) (rest : List Byte), i.wellFormed = true → decode i.source (encode i ++ rest) = .ok i rest

/-- R91, with the operand fields of R87: every opcode byte is a valid token start. -/
def Obligations.EveryOpcodeByteDecodes : Prop :=
  ∀ (v r : Byte) (rest : List Byte),
    (v.toNat < 64 → decode .stream (v :: rest) = .ok (.sgl (BitVec.ofNat 6 v.toNat)) rest) ∧
    (64 ≤ v.toNat → v.toNat < 128 → decode .stream (v :: rest) = .ok (.dbl (BitVec.ofNat 6 v.toNat)) rest) ∧
    (128 ≤ v.toNat → v.toNat < 192 → decode .stream (v :: rest) = .ok (.dic (BitVec.ofNat 6 v.toNat)) rest) ∧
    (192 ≤ v.toNat → decode .stream (v :: r :: rest) = .ok (.run (BitVec.ofNat 6 v.toNat) r) rest)

/-- R90: the first byte alone tells a token's length, and the token read encodes to the bytes read. -/
def Obligations.TokenLengthFromFirstByte : Prop :=
  ∀ (v r : Byte) (rest : List Byte),
    (192 ≤ v.toNat → (∃ i, decode .stream (v :: r :: rest) = .ok i rest ∧ encode i = [v, r]) ∧
      decode .stream [v] = .rejected .runByteMissing) ∧
    (v.toNat < 192 → ∃ i, decode .stream (v :: rest) = .ok i rest ∧ encode i = [v])

/-- R96 with R22: a word with bit 31 set starts exactly one well-formed command, whose encoding is the word without its
reserved bits; a word with bit 31 clear starts none. -/
def Obligations.StartWordsReencode : Prop :=
  ∀ w : Word,
    (w.getLsbD 31 = true → ∃ i, decodeCommand w = some i ∧ i.wellFormed = true ∧ i.source = .control ∧
      encode i = bytesOfWord (w &&& 0x8000001F#32)) ∧
    (w.getLsbD 31 = false → decodeCommand w = none)

/-- Some words written out from the encodings of R88, R96 and R97. -/
def Obligations.WrittenOutWordsDecode : Prop :=
  decode .stream [0b00000101#8] = .ok (.sgl 5#6) [] ∧
  decode .stream [0b01000011#8] = .ok (.dbl 3#6) [] ∧
  decode .stream [0b10000000#8] = .ok (.dic 0#6) [] ∧
  decode .stream [0b11000101#8, 0b00001010#8] = .ok (.run 5#6 10#8) [] ∧
  decodeCommand 0x80000011#32 = some (.decode false true) ∧
  decodeCommand 0x80000018#32 = some (.badCommand 0#3 true true) ∧
  decodeCommand 0x8000001A#32 = some (.encode true true) ∧
  decodeCommand 0x80000003#32 = some (.sniff false false)

/-- A step runs the instruction that stands where it fetches: a token at `pos` of a DECODE or SNIFF, the host silent or
waiting; or the START value of the host's next write. -/
def Obligations.StepRunsDecodedInstruction : Prop :=
  (∀ (s : State) (i : Instr) (rest : List Byte), s.hostQ = [] → s.phase = .pixels → s.encoding = false →
    s.count < 5000 → decode .stream s.tokenBytes = .ok i rest → step s = exec i s) ∧
  (∀ (s : State) (i : Instr) (rest : List Byte) (q : List HostEvent), s.hostQ = .wait :: q → s.phase = .pixels →
    s.encoding = false → s.count < 5000 → decode .stream s.tokenBytes = .ok i rest →
    step s = exec i { s with hostQ := q }) ∧
  (∀ (s : State) (v : Word) (q : List HostEvent) (i : Instr), s.hostQ = .write .w32 0#32 v :: q →
    decodeCommand v = some i → step s = exec i s)

/-! Reset. -/

/-- R261: the registers after reset, the reserved offsets among them. -/
def Obligations.ResetRegisters : Prop :=
  State.reset.ctrl = 0x00000010#32 ∧ State.reset.status = 0#32 ∧ State.reset.inLen = 0#32 ∧
  State.reset.palCount = 0#32 ∧ State.reset.outLen = 0#32 ∧ State.reset.byteCursor = 0#32 ∧
  State.reset.pixCount = 0#32 ∧ State.reset.flipCursor = 0#32 ∧ State.reset.flipLen = 0#32 ∧
  ctrlCmd State.reset.ctrl = 0#3 ∧ ctrlMode State.reset.ctrl = false ∧ ctrlStrict State.reset.ctrl = true ∧
  State.reset.busy = false ∧ State.reset.done = false ∧ State.reset.err = false ∧ State.reset.accept = false ∧
  State.reset.trailing = false ∧ State.reset.code = 0#4 ∧ State.reset.sectionCode = 0#3 ∧
  ∀ k, 0x24 ≤ k → k < 0x40 → (State.reset.readRegister k).1 = 0#32

/-- R260 to R262: the reset event, in any state, BUSY or not, ends the running command without a completion and leaves
the registers and the working state as after reset. -/
def Obligations.ResetEventFromAnyState : Prop :=
  ∀ (s : State) (q : List HostEvent), s.hostQ = .reset :: q → ∃ t, step s = .next t ∧ t.hostQ = q ∧
    t.ctrl = 0x00000010#32 ∧ t.status = 0#32 ∧ t.inLen = 0#32 ∧ t.palCount = 0#32 ∧ t.outLen = 0#32 ∧
    t.byteCursor = 0#32 ∧ t.pixCount = 0#32 ∧ t.flipCursor = 0#32 ∧ t.flipLen = 0#32 ∧
    t.phase = .idle ∧ t.cmd = 0#3 ∧ t.mode = false ∧ t.strict = true ∧
    t.pos = 0 ∧ t.len = 0 ∧ t.count = 0 ∧ t.fcur = 0 ∧ t.flipL = 0#16 ∧
    t.params = s.params ∧ t.replies = s.replies

/-! Tokens in DECODE. -/

/-- R150: SGL emits CT[i], in every state of a DECODE. -/
def Obligations.SglPaintsOnePixel : Prop :=
  ∀ (s : State) (i : BitVec 6), s.sniffing = false → ∃ t, exec (.sgl i) s = .next t ∧ Painted s t 1 1 0 ∧
    t.pixel s.count = (s.ct[i.toNat]'i.isLt).setWidth 16

/-- R151: DBL emits CT[i] twice, or aborts at column 99. -/
def Obligations.DblPaintsTwoPixels : Prop :=
  ∀ (s : State) (i : BitVec 6), s.sniffing = false →
    (s.count % 100 + 2 ≤ 100 → ∃ t, exec (.dbl i) s = .next t ∧ Painted s t 1 2 0 ∧
      t.pixel s.count = (s.ct[i.toNat]'i.isLt).setWidth 16 ∧
      t.pixel (s.count + 1) = (s.ct[i.toNat]'i.isLt).setWidth 16) ∧
    (100 < s.count % 100 + 2 → s.undisturbed → ∃ t, exec (.dbl i) s = .next t ∧
      AbortReported s t .rowOverflow .pixels s.pos)

/-- R152: DIC emits its pair in the order of the flip bit at `fcur` (R124), or aborts: the row check first, then the flip
supply. -/
def Obligations.DicPaintsAPair : Prop :=
  ∀ (s : State) (j : BitVec 6), s.sniffing = false →
    (s.count % 100 + 2 ≤ 100 → s.fcur < 8 * s.nfb → ∃ t, exec (.dic j) s = .next t ∧ Painted s t 1 2 1 ∧
      ((s.inMem.read (386 + s.fcur / 8)).getLsbD (s.fcur % 8) = false →
        t.pixel s.count = (s.dl[j.toNat]'j.isLt).setWidth 16 ∧
        t.pixel (s.count + 1) = (s.dr[j.toNat]'j.isLt).setWidth 16) ∧
      ((s.inMem.read (386 + s.fcur / 8)).getLsbD (s.fcur % 8) = true →
        t.pixel s.count = (s.dr[j.toNat]'j.isLt).setWidth 16 ∧
        t.pixel (s.count + 1) = (s.dl[j.toNat]'j.isLt).setWidth 16)) ∧
    (100 < s.count % 100 + 2 → s.undisturbed → ∃ t, exec (.dic j) s = .next t ∧
      AbortReported s t .rowOverflow .pixels s.pos) ∧
    (s.count % 100 + 2 ≤ 100 → 8 * s.nfb ≤ s.fcur → s.undisturbed → ∃ t, exec (.dic j) s = .next t ∧
      AbortReported s t .flipOverrun .pixels s.pos)

/-- R153: RUN emits CT[i] r + 3 times, aborts where the run leaves its row, and aborts in the fetch where the stream ends
after the opcode byte. -/
def Obligations.RunPaintsARun : Prop :=
  (∀ (s : State) (i : BitVec 6) (r : Byte), s.sniffing = false →
    (s.count % 100 + (r.toNat + 3) ≤ 100 → ∃ t, exec (.run i r) s = .next t ∧ Painted s t 2 (r.toNat + 3) 0 ∧
      ∀ k, k < r.toNat + 3 → t.pixel (s.count + k) = (s.ct[i.toNat]'i.isLt).setWidth 16) ∧
    (100 < s.count % 100 + (r.toNat + 3) → s.undisturbed → ∃ t, exec (.run i r) s = .next t ∧
      AbortReported s t .rowOverflow .pixels s.pos)) ∧
  (∀ s : State, s.hostQ = [] → s.phase = .pixels → s.encoding = false → s.count < 5000 → s.undisturbed →
    s.len = s.pos + 1 → 192 ≤ (s.inMem.read s.pos).toNat → ∃ t, step s = .next t ∧
      AbortReported s t .shortRead .pixels s.pos)

/-- R143: before pixel 5000 a stream exhausted at a token boundary aborts (in SNIFF: rejects) with PIXEL_COUNT_MISMATCH. -/
def Obligations.ExhaustedStreamAborts : Prop :=
  ∀ s : State, s.hostQ = [] → s.phase = .pixels → s.encoding = false → s.count < 5000 → s.undisturbed →
    s.len ≤ s.pos → ∃ t, step s = .next t ∧ AbortReported s t .pixelCountMismatch .pixels s.pos

/-! Tokens in SNIFF. -/

/-- R213: in SNIFF every token is counted, and one that would carry the count past 5000 rejects; no memory changes. -/
def Obligations.SniffCountsTokens : Prop :=
  ∀ (s : State) (i : Instr), i.source = .stream → s.sniffing = true →
    (s.count + (tokenYield i).2.1 ≤ 5000 → exec i s = .next
      { s with
        pos := s.pos + (tokenYield i).1
        count := s.count + (tokenYield i).2.1
        fcur := s.fcur + (tokenYield i).2.2 }) ∧
    (5000 < s.count + (tokenYield i).2.1 → s.undisturbed → ∃ t, exec i s = .next t ∧
      AbortReported s t .pixelCountMismatch .pixels s.pos)

/-! Commands. -/

/-- R48, R140: a START of DECODE on an idle core with IN_LEN within IN_CAP. -/
def Obligations.DecodeStarts : Prop :=
  ∀ (s : State) (m k : Bool), s.busy = false → s.inLen.toNat ≤ s.params.inCap → ∃ t,
    exec (.decode m k) s = .next t ∧ Started s t 1#3 m k ∧ StartFrame s t ∧ t.phase = .ct ∧ t.plan = s.plan

/-- R48, R211: a START of SNIFF on an idle core with IN_LEN within IN_CAP. -/
def Obligations.SniffStarts : Prop :=
  ∀ (s : State) (m k : Bool), s.busy = false → s.inLen.toNat ≤ s.params.inCap → ∃ t,
    exec (.sniff m k) s = .next t ∧ Started s t 3#3 m k ∧ StartFrame s t ∧ t.phase = .ct ∧ t.plan = s.plan

/-- R48, R181: a START of ENCODE on an idle core with inputs that pass VALIDATE (R182); IN_LEN does not matter. What the
command will write is computed here (log 20): in ENC_MODE 1 the dictionary, flip bits and token bytes of R190 and R191,
in ENC_MODE 0 those of R184. -/
def Obligations.EncodeStarts : Prop :=
  ∀ (s : State) (m k : Bool), s.busy = false → RasterOk s → ∃ t,
    exec (.encode m k) s = .next t ∧ Started s t 2#3 m k ∧ StartFrame s t ∧ t.phase = .ct ∧ t.plan = t.makePlan ∧
    (m = true →
      t.plan.sel = selectKeys (walkKeys (imageWalk s fun _ _ => true)) ∧
      t.plan.flips = walkFlips (imageWalk s fun a b => decide (pairKey a b ∈ t.plan.sel)) ∧
      t.plan.body = (imageWalk s fun a b => decide (pairKey a b ∈ t.plan.sel)).flatMap (walkBytes t.plan.sel)) ∧
    (m = false → t.plan.sel = [] ∧ t.plan.flips = [] ∧
      t.plan.body = (List.range 5000).map fun k => s.idxMem.read k)

/-- R182, R197: an illegal PAL_COUNT, or the first pixel whose index names no palette entry, aborts ENCODE with
UNSUPPORTED_RASTER; OUT is unchanged, PIX_COUNT names the pixel. -/
def Obligations.UnsupportedRasterAborts : Prop :=
  ∀ (s : State) (m k : Bool), s.busy = false → s.undisturbed →
    ((s.palCount.toNat = 0 ∨ 64 < s.palCount.toNat) → ∃ t, exec (.encode m k) s = .next t ∧
      t.phase = .idle ∧ t.status = 0x7406#32 ∧ t.pixCount = 0#32 ∧ t.byteCursor = 0#32 ∧ t.outLen = 0#32 ∧
      t.flipCursor = 0#32 ∧ t.flipLen = 0#32 ∧ t.outMem = s.outMem ∧ t.pixMem = s.pixMem) ∧
    (∀ p, 1 ≤ s.palCount.toNat → s.palCount.toNat ≤ 64 → p < 5000 →
      s.palCount.toNat ≤ (s.idxMem.read p).toNat →
      (∀ l, l < p → (s.idxMem.read l).toNat < s.palCount.toNat) → ∃ t, exec (.encode m k) s = .next t ∧
      t.phase = .idle ∧ t.status = 0x7406#32 ∧ t.pixCount = BitVec.ofNat 32 p ∧ t.byteCursor = 0#32 ∧
      t.outLen = 0#32 ∧ t.flipCursor = 0#32 ∧ t.flipLen = 0#32 ∧ t.outMem = s.outMem ∧ t.pixMem = s.pixMem)

/-- R236: a START with a reserved CMD aborts with BAD_COMMAND, and a DECODE or SNIFF of a stream longer than IN_CAP with
BAD_LENGTH, both with ERR = 1; a reserved command leaves every memory as it was. -/
def Obligations.StartChecksAbort : Prop :=
  ∀ (s : State) (m k : Bool), s.busy = false → s.undisturbed →
    (∀ c : BitVec 3, c ≠ 1#3 → c ≠ 2#3 → c ≠ 3#3 → ∃ t, exec (.badCommand c m k) s = .next t ∧
      t.phase = .idle ∧ t.status = 0x7906#32 ∧ t.ctrl.toNat = c.toNat + 8 * m.toNat + 16 * k.toNat ∧
      t.byteCursor = 0#32 ∧ t.pixCount = 0#32 ∧ t.flipCursor = 0#32 ∧ t.flipLen = 0#32 ∧ t.outLen = 0#32 ∧
      t.inMem = s.inMem ∧ t.outMem = s.outMem ∧ t.palMem = s.palMem ∧ t.idxMem = s.idxMem ∧ t.pixMem = s.pixMem) ∧
    (s.params.inCap < s.inLen.toNat → ∀ i, i = .decode m k ∨ i = .sniff m k → ∃ t, exec i s = .next t ∧
      t.phase = .idle ∧ t.status = 0x7A06#32 ∧ t.byteCursor = 0#32 ∧ t.pixCount = 0#32 ∧ t.flipCursor = 0#32 ∧
      t.flipLen = 0#32 ∧ t.outLen = 0#32 ∧ t.inMem = s.inMem ∧ t.outMem = s.outMem)

/-- R49, R268: while BUSY a host write to any register, START among them, is taken and changes nothing. -/
def Obligations.BusyIgnoresRegisterWrites : Prop :=
  ∀ (s : State) (w : Width) (a v : Word) (q : List HostEvent), s.busy = true → s.hostQ = .write w a v :: q →
    a.toNat < 0x40 → step s = .next { s with hostQ := q }

/-! The sections of DECODE and SNIFF. -/

/-- R112: CT_READ of a DECODE loads 64 colours, bit 15 of each word dropped (R111), or aborts on a short stream. -/
def Obligations.ColorTableLoads : Prop :=
  ∀ s : State, s.hostQ = [] → s.phase = .ct → s.encoding = false → s.sniffing = false →
    (128 ≤ s.len → ∃ t, step s = .next t ∧ t = { s with ct := t.ct, pos := 128, phase := .dict } ∧
      ∀ k, (h : k < 64) → (t.ct[k]).toNat = inField s (2 * k) % 32768) ∧
    (s.len < 128 → s.undisturbed → ∃ t, step s = .next t ∧ AbortReported s t .shortRead .ct 0)

/-- R118: DICT_READ of a DECODE loads 64 pairs, or aborts on a short stream. -/
def Obligations.DictionaryLoads : Prop :=
  ∀ s : State, s.hostQ = [] → s.phase = .dict → s.encoding = false → s.sniffing = false →
    (384 ≤ s.len → ∃ t, step s = .next t ∧ t = { s with dl := t.dl, dr := t.dr, pos := 384, phase := .flen } ∧
      ∀ j, (h : j < 64) → (t.dl[j]).toNat = inField s (128 + 4 * j) % 32768 ∧
        (t.dr[j]).toNat = inField s (128 + 4 * j + 2) % 32768) ∧
    (s.len < 384 → s.undisturbed → ∃ t, step s = .next t ∧ AbortReported s t .shortRead .dict 128)

/-- R120: FLEN_READ of a DECODE or SNIFF: L is kept, and rejected below 2; the short read comes first. -/
def Obligations.FlipLengthReads : Prop :=
  ∀ s : State, s.hostQ = [] → s.phase = .flen → s.encoding = false →
    (386 ≤ s.len → 2 ≤ inField s 384 → step s = .next
      { s with flipL := BitVec.ofNat 16 (inField s 384), nfb := inField s 384 - 2, pos := 386, phase := .fbits }) ∧
    (386 ≤ s.len → inField s 384 < 2 → s.undisturbed → ∃ t, step s = .next t ∧
      AbortReported { s with flipL := BitVec.ofNat 16 (inField s 384) } t .badFlipLength .flen 384) ∧
    (s.len < 386 → s.undisturbed → ∃ t, step s = .next t ∧ AbortReported s t .shortRead .flen 384)

/-- R122: FBITS_READ of a DECODE or SNIFF skips the flip bytes if they are all there. -/
def Obligations.FlipBitsSkip : Prop :=
  ∀ s : State, s.hostQ = [] → s.phase = .fbits → s.encoding = false →
    (386 + s.nfb ≤ s.len → step s = .next { s with pos := 386 + s.nfb, phase := .pixels }) ∧
    (s.len < 386 + s.nfb → s.undisturbed → ∃ t, step s = .next t ∧ AbortReported s t .shortRead .fbits 386)

/-- R211, R214: SNIFF skips the color table and the dictionary, loading nothing, or rejects a short stream. -/
def Obligations.SniffSkipsTables : Prop :=
  ∀ s : State, s.hostQ = [] → s.sniffing = true → s.encoding = false →
    (s.phase = .ct → 128 ≤ s.len → step s = .next { s with pos := 128, phase := .dict }) ∧
    (s.phase = .dict → 384 ≤ s.len → step s = .next { s with pos := 384, phase := .flen }) ∧
    (s.phase = .ct → s.len < 128 → s.undisturbed → ∃ t, step s = .next t ∧ AbortReported s t .shortRead .ct 0) ∧
    (s.phase = .dict → s.len < 384 → s.undisturbed → ∃ t, step s = .next t ∧ AbortReported s t .shortRead .dict 128)

/-- R140, R163: at 5000 pixels a DECODE leaves its loop, changing nothing else; its end then reports success, with TRAILING
exactly when bytes are left, and changes no memory. -/
def Obligations.DecodeEnds : Prop :=
  ∀ s : State, s.hostQ = [] → s.encoding = false → s.sniffing = false →
    (s.phase = .pixels → 5000 ≤ s.count → step s = .next { s with phase := .ending }) ∧
    (s.phase = .ending → s.undisturbed → ∃ t, step s = .next t ∧ t.phase = .idle ∧
      t.status = (if s.pos < s.len then 0x12#32 else 0x2#32) ∧
      t.byteCursor = BitVec.ofNat 32 s.pos ∧ t.pixCount = BitVec.ofNat 32 s.count ∧
      t.flipCursor = BitVec.ofNat 32 s.fcur ∧ t.flipLen = s.flipL.setWidth 32 ∧ t.outLen = 0#32 ∧
      t.pixMem = s.pixMem ∧ t.outMem = s.outMem ∧ t.inMem = s.inMem ∧ t.palMem = s.palMem ∧ t.idxMem = s.idxMem)

/-- R210, R211, R212: at 5000 pixels a SNIFF leaves its loop, changing nothing else; its end then accepts, but under
strictness rejects a stream with bytes left, and changes no memory. -/
def Obligations.SniffEnds : Prop :=
  ∀ s : State, s.hostQ = [] → s.sniffing = true →
    (s.phase = .pixels → 5000 ≤ s.count → step s = .next { s with phase := .ending }) ∧
    (s.phase = .ending → s.undisturbed → ∃ t, step s = .next t ∧ t.phase = .idle ∧
      t.status = (if s.strict = true ∧ s.pos ≠ s.len then 0x6802#32 else 0xA#32) ∧
      t.byteCursor = BitVec.ofNat 32 s.pos ∧ t.pixCount = BitVec.ofNat 32 s.count ∧
      t.flipCursor = BitVec.ofNat 32 s.fcur ∧ t.flipLen = s.flipL.setWidth 32 ∧ t.outLen = 0#32 ∧
      t.pixMem = s.pixMem ∧ t.outMem = s.outMem ∧ t.inMem = s.inMem ∧ t.palMem = s.palMem ∧ t.idxMem = s.idxMem)

/-! The sections of ENCODE. -/

/-- R113: CT_WRITE writes the palette's colours, bit 15 cleared, then zero words, and no other byte of OUT. -/
def Obligations.ColorTableWrites : Prop :=
  ∀ s : State, s.hostQ = [] → s.phase = .ct → s.encoding = true → ∃ t, step s = .next t ∧
    t = { s with outMem := t.outMem, pos := 128, phase := .dict } ∧
    (∀ k, k < 64 → t.outMem.readHalf (2 * k) =
      (if k < s.palCount.toNat then s.palMem.readHalf (2 * k) &&& 0x7FFF#16 else 0#16)) ∧
    ∀ a, 128 ≤ a → t.outMem.read a = s.outMem.read a

/-- R119: DICT_WRITE writes the selected pairs, left word first, then zero words, and no other byte of OUT. -/
def Obligations.DictionaryWrites : Prop :=
  ∀ s : State, s.hostQ = [] → s.phase = .dict → s.encoding = true → ∃ t, step s = .next t ∧
    t = { s with outMem := t.outMem, pos := 384, phase := .flen } ∧
    (∀ j, j < 64 →
      t.outMem.readHalf (128 + 4 * j) = ((s.plan.sel.getD j (0#15, 0#15)).1).setWidth 16 ∧
      t.outMem.readHalf (128 + 4 * j + 2) = ((s.plan.sel.getD j (0#15, 0#15)).2).setWidth 16) ∧
    ∀ a, a < 128 ∨ 384 ≤ a → t.outMem.read a = s.outMem.read a

/-- R125: FLIP_WRITE, as the two steps of the phases FLEN and FBITS (log 2: the number of steps is the model's):
L = 2 + ceil(nd / 8), then the flip bits least significant first, the bits past the last one 0. -/
def Obligations.FlipTableWrites : Prop :=
  ∀ s : State, s.hostQ = [] → s.phase = .flen → s.encoding = true → s.plan.flips.length ≤ 2500 →
    ∃ t u, step s = .next t ∧ step t = .next u ∧ t.phase = .fbits ∧
      u = { s with
        outMem := u.outMem
        flipL := u.flipL
        pos := 386 + (s.plan.flips.length + 7) / 8
        phase := .pixels } ∧
      u.flipL.toNat = 2 + (s.plan.flips.length + 7) / 8 ∧
      u.outMem.readHalf 384 = u.flipL ∧
      (∀ i, i < 8 * ((s.plan.flips.length + 7) / 8) →
        (u.outMem.read (386 + i / 8)).getLsbD (i % 8) = s.plan.flips.getD i false) ∧
      ∀ a, a < 384 ∨ 386 + (s.plan.flips.length + 7) / 8 ≤ a → u.outMem.read a = s.outMem.read a

/-- R191: the token bytes are written from `pos` on, and no other byte of OUT; the flip cursor takes the number of
dictionary tokens. -/
def Obligations.TokenBytesWrite : Prop :=
  ∀ s : State, s.hostQ = [] → s.phase = .pixels → s.encoding = true → ∃ t, step s = .next t ∧
    t = { s with
      outMem := t.outMem
      pos := s.pos + s.plan.body.length
      fcur := s.plan.flips.length
      phase := .ending } ∧
    (∀ k, (h : k < s.plan.body.length) → t.outMem.read (s.pos + k) = s.plan.body[k]) ∧
    ∀ a, a < s.pos ∨ s.pos + s.plan.body.length ≤ a → t.outMem.read a = s.outMem.read a

/-- R181: the end of an ENCODE reports success and the number of bytes written; OUT and PIX stay. -/
def Obligations.EncodeEnds : Prop :=
  ∀ s : State, s.hostQ = [] → s.phase = .ending → s.encoding = true → s.undisturbed →
    ∃ t, step s = .next t ∧ t.phase = .idle ∧ t.status = 0x2#32 ∧ t.outLen = BitVec.ofNat 32 s.pos ∧
      t.byteCursor = BitVec.ofNat 32 s.pos ∧ t.pixCount = 5000#32 ∧ t.flipCursor = BitVec.ofNat 32 s.fcur ∧
      t.flipLen = s.flipL.setWidth 32 ∧ t.outMem = s.outMem ∧ t.pixMem = s.pixMem

/-! What ENCODE computes. -/

/-- R184: the degenerate encoder has no pairs and no flip bits, and one SGL byte per pixel, in order. -/
def Obligations.DegenerateIsOneSglPerPixel : Prop :=
  ∀ s : State, s.mode = false → RasterOk s →
    s.makePlan.sel = [] ∧ s.makePlan.flips = [] ∧ s.makePlan.body.length = 5000 ∧
    ∀ k, (h : k < s.makePlan.body.length) → (s.makePlan.body[k]).toNat = (s.idxMem.read k).toNat

/-- R187, R189: the walk's tokens cover a row's pixels in order exactly once, every run has 3 pixels to a row's, and every
pair is one the predicate allows. At each token the walk measures the whole run of the next index, and takes RUN from 3
pixels on, DBL for 2, and for a lone pixel PAIR where a right neighbour stands and the predicate allows it, else SGL. -/
def Obligations.WalkReproducesRow : Prop :=
  ∀ (pc : Nat → Colour) (allow : Colour → Colour → Bool) (fuel : Nat) (row : List Nat), row.length ≤ fuel →
    (walkRow pc allow fuel row).flatMap (walkPixels pc) = row.map pc ∧
    (∀ p n, WalkToken.run p n ∈ walkRow pc allow fuel row → 3 ≤ n ∧ n ≤ row.length) ∧
    (∀ a b, WalkToken.pair a b ∈ walkRow pc allow fuel row → allow a b = true) ∧
    (row ≠ [] → ∃ p n, RunAt row p n) ∧
    ∀ p n, RunAt row p n → walkRow pc allow fuel row =
      (if 3 ≤ n then .run p n :: walkRow pc allow (fuel - 1) (row.drop n)
       else if n = 2 then .double p :: walkRow pc allow (fuel - 1) (row.drop 2)
       else
         match row[1]? with
         | some q =>
           if allow (pc p) (pc q) then .pair (pc p) (pc q) :: walkRow pc allow (fuel - 1) (row.drop 2)
           else .single p :: walkRow pc allow (fuel - 1) (row.drop 1)
         | none => [.single p])

/-- R190: the dictionary is the up-to-64 most frequent keys, by count descending, then first occurrence. -/
def Obligations.SelectionIsMostFrequent : Prop :=
  ∀ keys : List (Colour × Colour),
    (selectKeys keys).length = min 64 keys.dedup.length ∧
    (∀ q, q ∈ selectKeys keys → q ∈ keys) ∧
    (selectKeys keys).Pairwise (fun q r => keys.count r < keys.count q ∨
      (keys.count r = keys.count q ∧ keys.idxOf q < keys.idxOf r)) ∧
    ∀ q, q ∈ keys → q ∉ selectKeys keys → ∀ r, r ∈ selectKeys keys →
      keys.count q < keys.count r ∨ (keys.count q = keys.count r ∧ keys.idxOf r < keys.idxOf q)

/-- R188: a pair's key, smaller colour first, with its flip bit, emits the pair. -/
def Obligations.KeyAndFlipGiveThePair : Prop :=
  ∀ a b : Colour,
    (pairKey a b).1.toNat = min a.toNat b.toNat ∧ (pairKey a b).2.toNat = max a.toNat b.toNat ∧
    (pairFlip a b = true ↔ b.toNat < a.toNat) ∧
    (pairFlip a b = false → (pairKey a b).1 = a ∧ (pairKey a b).2 = b) ∧
    (pairFlip a b = true → (pairKey a b).2 = a ∧ (pairKey a b).1 = b)

/-- R191, R192: the bytes of each walk token decode to the token of its kind and operands, a pair to the DIC whose
dictionary entry is its key. -/
def Obligations.WalkBytesDecode : Prop :=
  ∀ (sel : List (Colour × Colour)) (rest : List Byte), sel.length ≤ 64 →
    (∀ p, p < 64 → decode .stream (walkBytes sel (.single p) ++ rest) = .ok (.sgl (BitVec.ofNat 6 p)) rest) ∧
    (∀ p, p < 64 → decode .stream (walkBytes sel (.double p) ++ rest) = .ok (.dbl (BitVec.ofNat 6 p)) rest) ∧
    (∀ p n, p < 64 → 3 ≤ n → n ≤ 100 → ∃ r : Byte, runLength r = n ∧
      decode .stream (walkBytes sel (.run p n) ++ rest) = .ok (.run (BitVec.ofNat 6 p) r) rest) ∧
    (∀ a b, pairKey a b ∈ sel → ∃ j : BitVec 6, sel[j.toNat]? = some (pairKey a b) ∧
      decode .stream (walkBytes sel (.pair a b) ++ rest) = .ok (.dic j) rest)

/-- R193: what the plan (log 20) of either mode makes ENCODE write is at most 5386 bytes long, in ENC_MODE 0 exactly that. -/
def Obligations.OutputFitsBound : Prop :=
  ∀ s : State,
    386 + (s.makePlan.flips.length + 7) / 8 + s.makePlan.body.length ≤ 5386 ∧
    (s.mode = false → 386 + (s.makePlan.flips.length + 7) / 8 + s.makePlan.body.length = 5386)

/-! The host's side. -/

/-- R66: the host address map, with no window at any other address. R67: of an access that starts in a window, the bytes in
that window are performed and the rest is unmapped; a byte of an access that starts at an unmapped address lies where the
map has it (log 24). -/
def Obligations.HostMapAsGiven : Prop :=
  ∀ (p : Params) (a : Nat), p.legal →
    (0x1000 ≤ a → a ≤ 0x107F → memoryAt p a = some (.pal, a - 0x1000)) ∧
    (0x2000 ≤ a → a ≤ 0x3387 → memoryAt p a = some (.idx, a - 0x2000)) ∧
    (0x4000 ≤ a → a ≤ 0x670F → memoryAt p a = some (.pix, a - 0x4000)) ∧
    (0x8000 ≤ a → a < 0x8000 + p.outCap → memoryAt p a = some (.out, a - 0x8000)) ∧
    (0x10000 ≤ a → a < 0x10000 + p.inCap → memoryAt p a = some (.inp, a - 0x10000)) ∧
    (a < 0x1000 ∨ (0x107F < a ∧ a < 0x2000) ∨ (0x3387 < a ∧ a < 0x4000) ∨ (0x670F < a ∧ a < 0x8000) ∨
      (0x8000 + p.outCap ≤ a ∧ a < 0x10000) ∨ 0x10000 + p.inCap ≤ a → memoryAt p a = none) ∧
    ∀ b : Nat,
      (∀ x o, memoryAt p a = some (x, o) →
        accessAt p a b = (if x.base ≤ b ∧ b < x.base + x.size p then some (x, b - x.base) else none)) ∧
      (memoryAt p a = none → accessAt p a b = memoryAt p b)

/-- R64, R67, R68: while idle, a write of any width to any address outside REG writes its bytes little-endian, those the
access performs in a window and no other, and changes nothing else. -/
def Obligations.IdleMemoryWrites : Prop :=
  ∀ (s : State) (w : Width) (a v : Word) (q : List HostEvent), s.busy = false → 0x40 ≤ a.toNat →
    s.hostQ = .write w a v :: q → ∃ t, step s = .next t ∧
      t = { s with
        hostQ := q, inMem := t.inMem, outMem := t.outMem, palMem := t.palMem, idxMem := t.idxMem,
        pixMem := t.pixMem } ∧
      ∀ (x : Window) (o : Nat),
        (t.memoryOf x).read o =
          (if Performs s.params a.toNat w.bytes x o then BitVec.ofNat 8 (v.toNat / 256 ^ (x.base + o - a.toNat))
           else (s.memoryOf x).read o)

/-- R64, R67, R68, R70: while idle, a read of any width outside REG answers its bytes little-endian, 0 for those in no
window and for those past the end of the window the access starts in, and changes nothing but the reply. -/
def Obligations.IdleMemoryReads : Prop :=
  ∀ (s : State) (w : Width) (a : Word) (q : List HostEvent), s.busy = false → 0x40 ≤ a.toNat →
    s.hostQ = .read w a :: q → ∃ v : Word,
      step s = .next { s with hostQ := q, replies := v :: s.replies } ∧
      ∀ i, i < 4 → v.toNat / 256 ^ i % 256 =
        (if i < w.bytes then
          (match accessAt s.params a.toNat (a.toNat + i) with
            | some (x, o) => ((s.memoryOf x).read o).toNat
            | none => 0)
         else 0)

/-- R21, R31, R67: while idle, an aligned 32-bit read of REG answers the register at its offset, 0 at a reserved one; any
other access to REG reads 0; nothing changes but the reply. -/
def Obligations.IdleRegisterReads : Prop :=
  ∀ (s : State) (w : Width) (a : Word) (q : List HostEvent), s.busy = false → a.toNat < 0x40 →
    s.hostQ = .read w a :: q →
    step s = .next { s with
      hostQ := q
      replies := (if w = .w32 ∧ a.toNat % 4 = 0 then
          [s.ctrl, s.status, s.inLen, s.palCount, s.outLen, s.byteCursor, s.pixCount, s.flipCursor,
            s.flipLen].getD (a.toNat / 4) 0#32
        else 0#32) :: s.replies }

/-- R22, R24, R25, R21, R31, R67: while idle, what a write to REG other than START stores. -/
def Obligations.IdleRegisterWrites : Prop :=
  ∀ (s : State) (w : Width) (a v : Word) (q : List HostEvent), s.busy = false → a.toNat < 0x40 →
    s.hostQ = .write w a v :: q →
    (w = .w32 → a = 0#32 → v.getLsbD 31 = false → step s = .next { s with hostQ := q, ctrl := v &&& 0x1F#32 }) ∧
    (w = .w32 → a = 0x08#32 → step s = .next { s with hostQ := q, inLen := v }) ∧
    (w = .w32 → a = 0x0C#32 → step s = .next { s with hostQ := q, palCount := v &&& 0x7F#32 }) ∧
    (w ≠ .w32 ∨ a ≠ 0#32 ∧ a ≠ 0x08#32 ∧ a ≠ 0x0C#32 → step s = .next { s with hostQ := q })

/-- R71, R67: while BUSY, CTRL, STATUS, IN_LEN and PAL_COUNT read their held values, every other access to REG that reads
no result register 0, and each byte of IN, PAL and IDX its held value, in an access of any width; the result registers,
and each byte of PIX and OUT, answer a free value of their own (log 8). -/
def Obligations.BusyReads : Prop :=
  ∀ (s : State) (q : List HostEvent), s.busy = true →
    (∀ a, a = 0x00#32 ∨ a = 0x04#32 ∨ a = 0x08#32 ∨ a = 0x0C#32 → s.hostQ = .read .w32 a :: q →
      step s = .next { s with
        hostQ := q, replies := [s.ctrl, s.status, s.inLen, s.palCount].getD (a.toNat / 4) 0#32 :: s.replies }) ∧
    (∀ a, a = 0x10#32 ∨ a = 0x14#32 ∨ a = 0x18#32 ∨ a = 0x1C#32 → s.hostQ = .read .w32 a :: q →
      step s = .next { s with
        hostQ := q, replies := Config.freeWord s.draws :: s.replies, draws := s.draws + 1 }) ∧
    (s.hostQ = .read .w32 0x20#32 :: q → step s = .next { s with
        hostQ := q, replies := (Config.freeWord s.draws &&& 0xFFFF#32) :: s.replies, draws := s.draws + 1 }) ∧
    (∀ (w : Width) (a : Word), a.toNat < 0x40 → w ≠ .w32 ∨ a.toNat % 4 ≠ 0 ∨ 0x24 ≤ a.toNat →
      s.hostQ = .read w a :: q → step s = .next { s with hostQ := q, replies := 0#32 :: s.replies }) ∧
    (∀ (w : Width) (a : Word), 0x40 ≤ a.toNat → s.hostQ = .read w a :: q → ∃ v : Word,
      step s = .next { s with
        hostQ := q, replies := v :: s.replies, draws := s.draws + resultBytes s.params a.toNat w.bytes } ∧
      ∀ i, i < 4 → v.toNat / 256 ^ i % 256 =
        (if i < w.bytes then
          (match accessAt s.params a.toNat (a.toNat + i) with
            | some (x, o) =>
              if x = .pix ∨ x = .out then (Config.freeByte (s.draws + resultBytes s.params a.toNat i)).toNat
              else ((s.memoryOf x).read o).toNat
            | none => 0)
         else 0))

/-- R266, R71, R67: while BUSY, a write of any width outside REG stores each byte it performs in IN, PAL or IDX and then
taints the running command; each byte it performs in PIX or OUT is noted, and those memories do not change; nothing else
changes (logs 9 and 11). -/
def Obligations.BusyMemoryWrites : Prop :=
  ∀ (s : State) (w : Width) (a v : Word) (q : List HostEvent), s.busy = true → 0x40 ≤ a.toNat →
    s.hostQ = .write w a v :: q → ∃ t, step s = .next t ∧
      t = { s with
        hostQ := q, inMem := t.inMem, palMem := t.palMem, idxMem := t.idxMem, tainted := t.tainted,
        dirtyPix := t.dirtyPix, dirtyOut := t.dirtyOut } ∧
      (∀ x, x = .inp ∨ x = .pal ∨ x = .idx → ∀ o, (t.memoryOf x).read o =
        (if Performs s.params a.toNat w.bytes x o then BitVec.ofNat 8 (v.toNat / 256 ^ (x.base + o - a.toNat))
         else (s.memoryOf x).read o)) ∧
      (t.tainted = true ↔ s.tainted = true ∨
        ∃ x o, (x = .inp ∨ x = .pal ∨ x = .idx) ∧ Performs s.params a.toNat w.bytes x o) ∧
      (∀ o, o ∈ t.dirtyPix ↔ o ∈ s.dirtyPix ∨ Performs s.params a.toNat w.bytes .pix o) ∧
      (∀ o, o ∈ t.dirtyOut ↔ o ∈ s.dirtyOut ∨ Performs s.params a.toNat w.bytes .out o)

/-- R71 (log 9): the step that ends a command with untouched inputs, a DECODE, an ENCODE or a SNIFF, with success, an
abort or a reject, leaves each byte of PIX and OUT that the host wrote while it ran a free value, and the others as they
were; but an aborted DECODE frees its later pixels too (log 10). -/
def Obligations.DirtyPixelsAreFree : Prop :=
  ∀ s t : State, s.hostQ = [] → s.phase ≠ .idle → s.tainted = false → step s = .next t → t.phase = .idle →
    t.dirtyPix = [] ∧ t.dirtyOut = [] ∧
    (∀ o, o ∈ s.dirtyPix → ∃ n, s.draws ≤ n ∧ t.pixMem.read o = Config.freeByte n) ∧
    (∀ o, o ∈ s.dirtyOut → ∃ n, s.draws ≤ n ∧ t.outMem.read o = Config.freeByte n) ∧
    (∀ o, o ∉ s.dirtyPix → s.cmd ≠ 1#3 ∨ t.err = false ∨ o < 2 * s.count → t.pixMem.read o = s.pixMem.read o) ∧
    (∀ o, o ∉ s.dirtyOut → t.outMem.read o = s.outMem.read o)

/-- R266 (log 11): the step that ends a command whose inputs were written while it ran, by success, abort or reject, leaves
every result a free value of its own: the fields of STATUS, OUT_LEN, the diagnostic registers (of FLIP_LEN bits 15:0), and
every byte of PIX and of OUT. BUSY falls and DONE rises all the same (DEDUCED), and the inputs stay. CODE may be any of its
16 values (log 26). -/
def Obligations.TaintedResultsAreFree : Prop :=
  ∀ s t : State, s.hostQ = [] → s.phase ≠ .idle → s.tainted = true → step s = .next t → t.phase = .idle →
    t.busy = false ∧ t.done = true ∧ t.tainted = false ∧
    (∃ n, s.draws ≤ n ∧
      t.err = (Config.freeWord n).getLsbD 2 ∧ t.accept = (Config.freeWord n).getLsbD 3 ∧
      t.trailing = (Config.freeWord n).getLsbD 4 ∧ t.code = (Config.freeWord n).extractLsb' 8 4 ∧
      t.sectionCode = (Config.freeWord n).extractLsb' 12 3 ∧ t.outLen = Config.freeWord (n + 1) ∧
      t.byteCursor = Config.freeWord (n + 2) ∧ t.pixCount = Config.freeWord (n + 3) ∧
      t.flipCursor = Config.freeWord (n + 4) ∧ t.flipLen = Config.freeWord (n + 5) &&& 0xFFFF#32) ∧
    (∀ a, a < 10000 → ∃ n, s.draws ≤ n ∧ t.pixMem.read a = Config.freeByte n) ∧
    (∀ a, a < s.params.outCap → ∃ n, s.draws ≤ n ∧ t.outMem.read a = Config.freeByte n) ∧
    t.inMem = s.inMem ∧ t.palMem = s.palMem ∧ t.idxMem = s.idxMem

/-- R156, R239 (log 10): every abort of a DECODE with untouched inputs, in a table section or in the pixel stream, leaves the
pixels of the completed tokens as they stand, but for bytes the host wrote itself (log 9), and every later byte of PIX a
free value; a DECODE turned away with BAD_LENGTH leaves every byte of PIX a free value. -/
def Obligations.AbortedPixelsAreFree : Prop :=
  (∀ s t : State, s.hostQ = [] → s.phase ≠ .idle → s.cmd = 1#3 → s.tainted = false → step s = .next t →
    t.phase = .idle → t.err = true →
    (∀ k, k < s.count → 2 * k ∉ s.dirtyPix → 2 * k + 1 ∉ s.dirtyPix → t.pixel k = s.pixel k) ∧
    (∀ a, 2 * s.count ≤ a → a < 10000 → ∃ n, s.draws ≤ n ∧ t.pixMem.read a = Config.freeByte n) ∧
    (∀ a, 10000 ≤ a → a ∉ s.dirtyPix → t.pixMem.read a = s.pixMem.read a)) ∧
  ∀ (s : State) (m k : Bool), s.busy = false → s.tainted = false → s.params.inCap < s.inLen.toNat → ∃ t,
    exec (.decode m k) s = .next t ∧ t.phase = .idle ∧
    ∀ a, a < 10000 → ∃ n, s.draws ≤ n ∧ t.pixMem.read a = Config.freeByte n

/-- R23: the layout of STATUS, and that its accessors read its fields. -/
def Obligations.StatusLayout : Prop :=
  ∀ (b d e a t : Bool) (c : BitVec 4) (x : BitVec 3),
    (statusWord b d e a t c x).toNat =
      b.toNat + 2 * d.toNat + 4 * e.toNat + 8 * a.toNat + 16 * t.toNat + 256 * c.toNat + 4096 * x.toNat ∧
    ∀ s : State, s.status = statusWord b d e a t c x →
      s.busy = b ∧ s.done = d ∧ s.err = e ∧ s.accept = a ∧ s.trailing = t ∧ s.code = c ∧ s.sectionCode = x

/-! Invariants and whole-machine rules. -/

/-- Every step keeps every memory in its canonical form. -/
def Obligations.StepKeepsMemoriesCanonical : Prop :=
  ∀ s t : State, s.memoriesCanonical → step s = .next t → t.memoriesCanonical

/-- R31: every step keeps the reserved register bits at 0. -/
def Obligations.StepKeepsReservedBitsZero : Prop :=
  ∀ s t : State, s.reservedBitsZero → step s = .next t → t.reservedBitsZero

/-- R35, R36, R37, R41: every step keeps the cursors in range, BUSY in agreement with the phase, and STATUS 1 while
BUSY (R71). -/
def Obligations.StepKeepsCursorsInRange : Prop :=
  ∀ s t : State, s.cursorsInRange → s.busyMatchesPhase → step s = .next t → t.cursorsInRange ∧ t.busyMatchesPhase

/-- R66, R193: with legal parameters every step keeps every memory inside its window; the engine never writes past
OUT_CAP. -/
def Obligations.StepKeepsMemoriesInWindows : Prop :=
  ∀ s t : State, s.params.legal → s.memoriesInWindows → s.encodeFits → (∀ o, o ∈ s.dirtyPix → o < pixBytes) →
    (∀ o, o ∈ s.dirtyOut → o < s.params.outCap) → step s = .next t →
    t.params = s.params ∧ t.memoriesInWindows ∧ t.encodeFits ∧ (∀ o, o ∈ t.dirtyPix → o < pixBytes) ∧
      (∀ o, o ∈ t.dirtyOut → o < t.params.outCap)

/-- The invariants hold at reset. -/
def Obligations.InvariantsHoldAtReset : Prop :=
  State.reset.memoriesCanonical ∧ State.reset.reservedBitsZero ∧ State.reset.cursorsInRange ∧
  State.reset.busyMatchesPhase ∧ State.reset.params.legal ∧ State.reset.memoriesInWindows ∧ State.reset.encodeFits ∧
  State.reset.undisturbed

/-- R252: an idle core whose host is silent does nothing. -/
def Obligations.IdleCoreDoesNothing : Prop :=
  ∀ s : State, s.hostQ = [] → s.phase = .idle → step s = .next s

/-- R43, R75, R141, R214: a step of the engine changes no input and no register the host writes; DECODE and SNIFF leave
OUT alone, ENCODE and SNIFF leave PIX alone. -/
def Obligations.EngineLeavesInputsAlone : Prop :=
  ∀ s t : State, s.hostQ = [] → step s = .next t →
    t.inMem = s.inMem ∧ t.palMem = s.palMem ∧ t.idxMem = s.idxMem ∧ t.inLen = s.inLen ∧
    t.palCount = s.palCount ∧ t.ctrl = s.ctrl ∧ t.cmd = s.cmd ∧ t.mode = s.mode ∧ t.strict = s.strict ∧
    t.len = s.len ∧ t.params = s.params ∧ t.replies = s.replies ∧
    (s.undisturbed → s.encoding = false → t.outMem = s.outMem) ∧
    (s.undisturbed → s.encoding = true ∨ s.sniffing = true → t.pixMem = s.pixMem)

/-- R275: every command completes: with the host silent, 5006 steps or fewer lower BUSY and raise DONE. The number of steps
is the model's (log 2), and that a command with inputs written while it ran completes like this is DEDUCED (log 11). -/
def Obligations.EveryCommandCompletes : Prop :=
  ∀ s : State, s.hostQ = [] → s.phase ≠ .idle → ∃ n t, n ≤ 5006 ∧ Sys2Proof.core.run n s = .next t ∧
    t.phase = .idle ∧ t.busy = false ∧ t.done = true

/-- R216, R217: a SNIFF of a stream follows the DECODE of it: the same rejections as aborts, and an accept (or under
strictness a TRAILING_DATA reject) where DECODE succeeds, with the same diagnostic registers. -/
def Obligations.SniffFollowsDecode : Prop :=
  ∀ (s : State) (n : Nat) (t : State), s.hostQ = [] → s.undisturbed → s.cursorsInRange → s.cmd = 1#3 →
    s.phase ≠ .idle →
    Sys2Proof.core.run n s = .next t → t.phase = .idle →
    ∃ t', Sys2Proof.core.run n { s with cmd := 3#3 } = .next t' ∧
      (t.err = false ∨ t.code ≠ 6#4 ∧ t.code ≠ 7#4 →
        t'.phase = .idle ∧ t'.err = false ∧ t'.byteCursor = t.byteCursor ∧ t'.pixCount = t.pixCount ∧
        t'.flipCursor = t.flipCursor ∧ t'.flipLen = t.flipLen) ∧
      (t.err = true → t.code ≠ 6#4 → t.code ≠ 7#4 →
        t'.accept = false ∧ t'.code = t.code ∧ t'.sectionCode = t.sectionCode) ∧
      (t.err = false → t.trailing = false ∨ s.strict = false → t'.accept = true ∧ t'.code = 0#4) ∧
      (t.err = false → t.trailing = true → s.strict = true →
        t'.accept = false ∧ t'.code = 8#4 ∧ t'.sectionCode = 6#3)

/-- R69, R161: no step of a run of the engine depends on a byte of IN at or past `len`. -/
def Obligations.BytesPastLengthDoNotMatter : Prop :=
  ∀ (s : State) (m : Memory) (n : Nat) (t : State), s.hostQ = [] → s.cursorsInRange →
    (∀ k, k < s.len → m.read k = s.inMem.read k) → Sys2Proof.core.run n s = .next t →
    Sys2Proof.core.run n { s with inMem := m } = .next { t with inMem := m }

/-- R195: for every input that passes VALIDATE and either mode, DECODE of what ENCODE wrote succeeds with nothing trailing
and gives every pixel its palette colour. -/
def Obligations.EncodeThenDecodeIsIdentity : Prop :=
  ∀ (s : State) (m k : Bool), s.busy = false → s.undisturbed → RasterOk s →
    s.hostQ = [.write .w32 0#32 (startWord 2#3 m k)] → ∃ n t, Sys2Proof.core.run n s = .next t ∧
      t.phase = .idle ∧ t.status = 0x2#32 ∧
      ∀ (u : State) (m' k' : Bool), u.busy = false → u.undisturbed → u.params.legal →
        u.hostQ = [.write .w32 0#32 (startWord 1#3 m' k')] → u.inLen = t.outLen →
        (∀ a, a < t.outLen.toNat → u.inMem.read a = t.outMem.read a) →
        ∃ n' v, Sys2Proof.core.run n' u = .next v ∧ v.phase = .idle ∧ v.status = 0x2#32 ∧ v.pixCount = 5000#32 ∧
          ∀ p, p < 5000 → v.pixel p = s.palMem.readHalf (2 * (s.idxMem.read p).toNat) &&& 0x7FFF#16
end

