-- ==== Sys2Proof/Laws/Memory.lean ====
section
/-!
SUPPORT. The laws of memory: a read after a write, what a write leaves alone, that every operation keeps the canonical
form and the bounds, and that memories in canonical form with equal reads are equal.
-/

namespace Sys2Proof.Machine

open Sys2Proof

theorem pixBytes_eq : pixBytes = 10000 := by unfold pixBytes; rfl

@[simp] theorem Memory.read_nil (a : Nat) : Memory.read [] a = background := rfl

/-! One byte. -/

theorem Memory.read_eq_background {m : Memory} {a : Nat} (h : ∀ c ∈ m, c.1 ≠ a) : m.read a = background := by
  induction m with
  | nil => rfl
  | cons c rest ih =>
    obtain ⟨k, b⟩ := c
    have hk : k ≠ a := h (k, b) (by simp)
    simp [Memory.read, hk, ih fun d hd => h d (by simp [hd])]

theorem Memory.read_others (m : Memory) {a b : Nat} (h : b ≠ a) :
    Memory.read (m.filter (fun c => c.1 ≠ a)) b = m.read b := by
  induction m with
  | nil => rfl
  | cons c rest ih =>
    obtain ⟨k, v⟩ := c
    by_cases hk : k = a
    · subst hk
      simp only [List.filter_cons, ne_eq, not_true_eq_false, decide_false, Bool.false_eq_true, if_false]
      rw [Memory.read, if_neg (fun e => h e.symm)]
      exact ih
    · simp only [List.filter_cons, ne_eq, hk, not_false_eq_true, decide_true, if_true, Memory.read]
      split
      · rfl
      · exact ih

theorem Memory.read_place_same (m : Memory) (a : Nat) (v : Byte) (h : ∀ c ∈ m, c.1 ≠ a) :
    (m.place a v).read a = v := by
  induction m with
  | nil => simp [Memory.place, Memory.read]
  | cons c rest ih =>
    obtain ⟨k, b⟩ := c
    have hk : k ≠ a := h (k, b) (by simp)
    unfold Memory.place
    split
    · simp [Memory.read]
    · simp [Memory.read, hk, ih fun d hd => h d (by simp [hd])]

theorem Memory.read_place_ne (m : Memory) {a b : Nat} (v : Byte) (h : b ≠ a) : (m.place a v).read b = m.read b := by
  induction m with
  | nil => simp [Memory.place, Memory.read, Ne.symm h]
  | cons c rest ih =>
    obtain ⟨k, w⟩ := c
    unfold Memory.place
    split
    · simp [Memory.read, Ne.symm h]
    · simp [Memory.read, ih]

theorem Memory.others_ne (m : Memory) (a : Nat) : ∀ c ∈ m.filter (fun c => c.1 ≠ a), c.1 ≠ a := by
  intro c hc
  simpa using (List.mem_filter.1 hc).2

/-- A read after a write to the same offset gives the value written. -/
@[simp] theorem Memory.read_write_same (m : Memory) (a : Nat) (v : Byte) : (m.write a v).read a = v := by
  simp only [Memory.write]
  split
  · next h => rw [h]; exact Memory.read_eq_background (Memory.others_ne m a)
  · exact Memory.read_place_same _ a v (Memory.others_ne m a)

/-- A write leaves every other offset alone. -/
theorem Memory.read_write_ne (m : Memory) {a b : Nat} (v : Byte) (h : b ≠ a) : (m.write a v).read b = m.read b := by
  simp only [Memory.write]
  split
  · exact Memory.read_others m h
  · rw [Memory.read_place_ne _ v h, Memory.read_others m h]

theorem Memory.mem_place {m : Memory} {a : Nat} {v : Byte} {c : Host.Cell} :
    c ∈ m.place a v ↔ c = (a, v) ∨ c ∈ m := by
  induction m with
  | nil => simp [Memory.place]
  | cons d rest ih =>
    obtain ⟨k, b⟩ := d
    unfold Memory.place
    split
    · simp
    · simp only [List.mem_cons, ih]; tauto

theorem Memory.place_sorted {m : Memory} {a : Nat} {v : Byte} (hs : m.Pairwise (fun c d => c.1 < d.1))
    (hne : ∀ c ∈ m, c.1 ≠ a) : (m.place a v).Pairwise (fun c d => c.1 < d.1) := by
  induction m with
  | nil => simp [Memory.place]
  | cons d rest ih =>
    obtain ⟨k, b⟩ := d
    obtain ⟨hk, hr⟩ := List.pairwise_cons.1 hs
    have hka : k ≠ a := hne (k, b) (by simp)
    unfold Memory.place
    split
    · next hlt =>
      refine List.pairwise_cons.2 ⟨fun c hc => ?_, hs⟩
      rcases List.mem_cons.1 hc with rfl | hc
      · exact hlt
      · exact lt_trans hlt (hk c hc)
    · next hlt =>
      refine List.pairwise_cons.2 ⟨fun c hc => ?_, ih hr fun c hc => hne c (by simp [hc])⟩
      rcases Memory.mem_place.1 hc with rfl | hc
      · show k < a; omega
      · exact hk c hc

/-- Every write keeps the canonical form. -/
theorem Memory.write_wf {m : Memory} (h : m.wf) (a : Nat) (v : Byte) : (m.write a v).wf := by
  obtain ⟨hs, hb⟩ := h
  have hf : (m.filter (fun c => c.1 ≠ a)).Pairwise (fun c d => c.1 < d.1) := hs.filter _
  have hg : ∀ c ∈ m.filter (fun c => c.1 ≠ a), c.2 ≠ background := fun c hc => hb c (List.mem_filter.1 hc).1
  simp only [Memory.write]
  split
  · exact ⟨hf, hg⟩
  · next hv =>
    refine ⟨Memory.place_sorted hf (Memory.others_ne m a), fun c hc => ?_⟩
    rcases Memory.mem_place.1 hc with rfl | hc
    · exact hv
    · exact hg c hc

/-- A write below a size stays within it. -/
theorem Memory.write_within {m : Memory} {n : Nat} (h : m.within n) {a : Nat} (ha : a < n) (v : Byte) :
    (m.write a v).within n := by
  have hg : ∀ c ∈ m.filter (fun c => c.1 ≠ a), c.1 < n := fun c hc => h c (List.mem_filter.1 hc).1
  simp only [Memory.write]
  split
  · exact hg
  · intro c hc
    rcases Memory.mem_place.1 hc with rfl | hc
    · exact ha
    · exact hg c hc

/-! Runs of bytes. -/

theorem Memory.read_writeBytes_outside (m : Memory) (a : Nat) (bs : List Byte) {k : Nat}
    (h : k < a ∨ a + bs.length ≤ k) : (m.writeBytes a bs).read k = m.read k := by
  induction bs generalizing m a with
  | nil => rfl
  | cons b bs ih =>
    simp only [List.length_cons] at h
    rw [Memory.writeBytes, ih (m.write a b) (a + 1) (by omega), Memory.read_write_ne _ _ (by omega)]

theorem Memory.read_writeBytes_inside (m : Memory) (a : Nat) (bs : List Byte) {i : Nat} (h : i < bs.length) :
    (m.writeBytes a bs).read (a + i) = bs[i] := by
  induction bs generalizing m a i with
  | nil => simp at h
  | cons b bs ih =>
    cases i with
    | zero =>
      rw [Memory.writeBytes, Memory.read_writeBytes_outside _ _ _ (by omega)]
      simp
    | succ i =>
      have := ih (m.write a b) (a + 1) (i := i) (by simpa using h)
      rw [Memory.writeBytes, show a + (i + 1) = a + 1 + i by omega, this]
      simp

theorem Memory.writeBytes_wf {m : Memory} (h : m.wf) (a : Nat) (bs : List Byte) : (m.writeBytes a bs).wf := by
  induction bs generalizing m a with
  | nil => exact h
  | cons b bs ih => exact ih (Memory.write_wf h a b) (a + 1)

theorem Memory.writeBytes_within {m : Memory} {n : Nat} (h : m.within n) {a : Nat} {bs : List Byte}
    (ha : a + bs.length ≤ n) : (m.writeBytes a bs).within n := by
  induction bs generalizing m a with
  | nil => exact h
  | cons b bs ih =>
    simp only [List.length_cons] at ha
    exact ih (Memory.write_within h (by omega) b) (by omega)

theorem Memory.writeBytes_append (m : Memory) (a : Nat) (bs cs : List Byte) :
    m.writeBytes a (bs ++ cs) = (m.writeBytes a bs).writeBytes (a + bs.length) cs := by
  induction bs generalizing m a with
  | nil => rfl
  | cons b bs ih =>
    simp only [List.cons_append, Memory.writeBytes, List.length_cons, ih]
    congr 1; omega

/-! 16-bit fields. -/

theorem halfOfBytes_bytes (h : Half) : halfOfBytes (h.extractLsb' 0 8) (h.extractLsb' 8 8) = h := by
  unfold halfOfBytes
  ext i hi
  simp only [BitVec.getElem_append, BitVec.getElem_extractLsb']
  split
  · rw [Nat.zero_add, BitVec.getLsbD_eq_getElem (by omega)]
  · rw [BitVec.getLsbD_eq_getElem (by omega)]; congr 1; omega

@[simp] theorem Memory.readHalf_writeHalf (m : Memory) (a : Nat) (h : Half) : (m.writeHalf a h).readHalf a = h := by
  have h0 := Memory.read_writeBytes_inside m a (bytesOfHalf h) (i := 0) (by simp [bytesOfHalf])
  have h1 := Memory.read_writeBytes_inside m a (bytesOfHalf h) (i := 1) (by simp [bytesOfHalf])
  simp only [Nat.add_zero] at h0
  rw [Memory.readHalf, Memory.writeHalf, h0, h1]
  simpa [bytesOfHalf] using halfOfBytes_bytes h

theorem Memory.read_writeHalf_outside (m : Memory) (a : Nat) (h : Half) {k : Nat} (hk : k < a ∨ a + 2 ≤ k) :
    (m.writeHalf a h).read k = m.read k :=
  Memory.read_writeBytes_outside m a (bytesOfHalf h) (by simpa [bytesOfHalf] using hk)

theorem Memory.writeHalf_wf {m : Memory} (h : m.wf) (a : Nat) (v : Half) : (m.writeHalf a v).wf :=
  Memory.writeBytes_wf h a _

theorem Memory.writeHalf_within {m : Memory} {n : Nat} (h : m.within n) {a : Nat} (ha : a + 2 ≤ n) (v : Half) :
    (m.writeHalf a v).within n :=
  Memory.writeBytes_within h (by simpa [bytesOfHalf] using ha)

/-! Free values. -/

theorem Memory.read_fill_other (m : Memory) (base : Nat) (os : List Nat) {k : Nat} (h : k ∉ os) :
    (m.fill base os).read k = m.read k := by
  induction os generalizing m with
  | nil => rfl
  | cons o os ih =>
    simp only [List.mem_cons, not_or] at h
    rw [Memory.fill, ih _ h.2, Memory.read_write_ne _ _ h.1]

theorem Memory.read_fill_listed (m : Memory) (base : Nat) (os : List Nat) {k : Nat} (h : k ∈ os) :
    (m.fill base os).read k = Config.freeByte (base + k) := by
  induction os generalizing m with
  | nil => simp at h
  | cons o os ih =>
    rw [Memory.fill]
    by_cases hk : k ∈ os
    · exact ih _ hk
    · rw [Memory.read_fill_other _ _ _ hk]
      obtain rfl : k = o := by simpa [hk] using h
      simp

@[simp] theorem Memory.fill_nil (m : Memory) (base : Nat) : m.fill base [] = m := rfl

theorem Memory.fill_wf {m : Memory} (h : m.wf) (base : Nat) (os : List Nat) : (m.fill base os).wf := by
  induction os generalizing m with
  | nil => exact h
  | cons o os ih => exact ih (Memory.write_wf h _ _)

theorem Memory.fill_within {m : Memory} {n : Nat} (h : m.within n) (base : Nat) {os : List Nat}
    (ho : ∀ o ∈ os, o < n) : (m.fill base os).within n := by
  induction os generalizing m with
  | nil => exact h
  | cons o os ih =>
    exact ih (Memory.write_within h (ho o (by simp)) _) fun x hx => ho x (by simp [hx])

/-! The canonical form. -/

theorem Memory.wf_nil : Memory.wf [] := by simp [Memory.wf]

/-- The memories after reset have the canonical form. -/
theorem State.reset_memories_wf : State.reset.inMem.wf ∧ State.reset.outMem.wf ∧ State.reset.palMem.wf ∧
    State.reset.idxMem.wf ∧ State.reset.pixMem.wf :=
  ⟨Memory.wf_nil, Memory.wf_nil, Memory.wf_nil, Memory.wf_nil, Memory.wf_nil⟩

theorem Memory.wf_tail {c : Host.Cell} {m : Memory} (h : Memory.wf (c :: m)) : Memory.wf m :=
  ⟨(List.pairwise_cons.1 h.1).2, fun d hd => h.2 d (by simp [hd])⟩

theorem Memory.read_below {c : Host.Cell} {m : Memory} (h : Memory.wf (c :: m)) {a : Nat} (ha : a < c.1) :
    Memory.read (c :: m) a = background := by
  refine Memory.read_eq_background fun d hd => ?_
  rcases List.mem_cons.1 hd with rfl | hd
  · omega
  · have := (List.pairwise_cons.1 h.1).1 d hd; omega

/-- Equal memories are equal data. -/
theorem Memory.eq_of_read {m n : Memory} (hm : m.wf) (hn : n.wf) (h : ∀ a, m.read a = n.read a) : m = n := by
  induction m generalizing n with
  | nil =>
    cases n with
    | nil => rfl
    | cons c rest =>
      obtain ⟨k, b⟩ := c
      have := h k
      simp only [Memory.read, if_true] at this
      exact absurd this.symm (hn.2 (k, b) (by simp))
  | cons c rest ih =>
    obtain ⟨k, b⟩ := c
    have hb : b ≠ background := hm.2 (k, b) (by simp)
    cases n with
    | nil =>
      have := h k
      simp only [Memory.read, if_true] at this
      exact absurd this hb
    | cons d rest' =>
      obtain ⟨k', b'⟩ := d
      have hb' : b' ≠ background := hn.2 (k', b') (by simp)
      have hk : k = k' := by
        rcases lt_trichotomy k k' with hlt | heq | hlt
        · have := h k
          rw [Memory.read_below hn hlt] at this
          simp only [Memory.read, if_true] at this
          exact absurd this hb
        · exact heq
        · have := h k'
          rw [Memory.read_below hm hlt] at this
          simp only [Memory.read, if_true] at this
          exact absurd this.symm hb'
      subst hk
      have hbb : b = b' := by simpa [Memory.read] using h k
      subst hbb
      have : rest = rest' := by
        refine ih (Memory.wf_tail hm) (Memory.wf_tail hn) fun a => ?_
        by_cases ha : k = a
        · subst ha
          rw [Memory.read_eq_background fun c hc => ?_, Memory.read_eq_background fun c hc => ?_]
          · have := (List.pairwise_cons.1 hn.1).1 c hc; simp only at this; omega
          · have := (List.pairwise_cons.1 hm.1).1 c hc; simp only at this; omega
        · simpa [Memory.read, ha] using h a
      rw [this]

end Sys2Proof.Machine
end

