-- ==== Sys2Proof/Laws/Encoder.lean ====
section
/-!
SUPPORT. What the encoder's operations can do: runs, the lists taken from a walk, the ranking of keys, flip bytes, and
16-bit fields written one after another.
-/

namespace Sys2Proof.Machine

open Sys2Proof

/-- The front of a list that `leading` counts is a run, and no longer than the list. -/
theorem leading_run (p : Nat) : ∀ l : List Nat,
    l = List.replicate (leading p l) p ++ l.drop (leading p l) ∧ leading p l ≤ l.length
  | [] => by simp [leading]
  | q :: rest => by
    have ih := leading_run p rest
    simp only [leading]
    split
    · next h =>
      subst h
      refine ⟨?_, by simp; omega⟩
      simp only [List.replicate_succ, List.cons_append, List.drop_succ_cons]
      rw [← ih.1]
    · simp

/-- The run ends at the list's end or before another index (R187). -/
theorem leading_stops (p : Nat) : ∀ l : List Nat, ∀ h : leading p l < l.length, l[leading p l] ≠ p
  | [] => by simp
  | q :: rest => by
    intro h
    simp only [leading] at h ⊢
    split
    · next hq =>
      simp only [if_pos hq, List.length_cons, Nat.add_lt_add_iff_right] at h
      simpa using leading_stops p rest h
    · next hq => simpa using hq

theorem walkFlips_append (xs ys : List WalkToken) : walkFlips (xs ++ ys) = walkFlips xs ++ walkFlips ys := by
  induction xs with
  | nil => rfl
  | cons x xs ih => cases x <;> simp [walkFlips, ih]

theorem walkKeys_append (xs ys : List WalkToken) : walkKeys (xs ++ ys) = walkKeys xs ++ walkKeys ys := by
  induction xs with
  | nil => rfl
  | cons x xs ih => cases x <;> simp [walkKeys, ih]

/-- A walk has one flip bit for each key. -/
theorem walkFlips_length (xs : List WalkToken) : (walkFlips xs).length = (walkKeys xs).length := by
  induction xs with
  | nil => rfl
  | cons x xs ih => cases x <;> simp [walkFlips, walkKeys, ih]

theorem gridRow_length (s : State) (y : Nat) : (s.gridRow y).length = 100 := by simp [State.gridRow]

theorem mem_distinctKeys (keys : List (Colour × Colour)) (q : Colour × Colour) : q ∈ distinctKeys keys ↔ q ∈ keys := by
  induction keys with
  | nil => simp [distinctKeys]
  | cons r rest ih =>
    simp only [distinctKeys, List.mem_cons, List.mem_filter, decide_eq_true_eq, ih]
    by_cases h : q = r <;> simp [h]

theorem distinctKeys_nodup (keys : List (Colour × Colour)) : (distinctKeys keys).Nodup := by
  induction keys with
  | nil => simp [distinctKeys]
  | cons r rest ih =>
    simp only [distinctKeys, List.nodup_cons]
    exact ⟨by simp, ih.filter _⟩

/-- Inserting by rank keeps every entry and adds one. -/
theorem rankInsert_perm (x : (Colour × Colour) × Nat) (l : List ((Colour × Colour) × Nat)) :
    (rankInsert x l).Perm (x :: l) := by
  induction l with
  | nil => exact .refl _
  | cons y ys ih =>
    rw [rankInsert]
    split
    · exact .refl _
    · exact (ih.cons y).trans (.swap x y ys)

theorem foldr_rankInsert_perm (l : List ((Colour × Colour) × Nat)) : (l.foldr rankInsert []).Perm l := by
  induction l with
  | nil => exact .refl _
  | cons x l ih => exact (rankInsert_perm x _).trans (ih.cons x)

/-- Inserting by rank keeps the counts in descending order. -/
theorem rankInsert_sorted (x : (Colour × Colour) × Nat) (l : List ((Colour × Colour) × Nat))
    (h : l.Pairwise fun y z => z.2 ≤ y.2) : (rankInsert x l).Pairwise fun y z => z.2 ≤ y.2 := by
  induction l with
  | nil => simp [rankInsert]
  | cons y ys ih =>
    obtain ⟨hy, hs⟩ := List.pairwise_cons.mp h
    rw [rankInsert]
    split
    · next hx =>
      refine List.pairwise_cons.mpr ⟨fun z hz => ?_, h⟩
      rcases List.mem_cons.mp hz with rfl | hz
      · exact hx
      · exact le_trans (hy z hz) hx
    · next hx =>
      refine List.pairwise_cons.mpr ⟨fun z hz => ?_, ih hs⟩
      rcases List.mem_cons.mp ((rankInsert_perm x ys).mem_iff.mp hz) with rfl | hz
      · omega
      · exact hy z hz

theorem flipBytes_length (flips : List Bool) : (flipBytes flips).length = flipByteCount flips := by simp [flipBytes]

/-- Fields written one after another have two bytes each. -/
theorem halves_length (f : Nat → Half) (n : Nat) :
    ((List.range n).flatMap fun k => bytesOfHalf (f k)).length = 2 * n := by
  induction n with
  | zero => rfl
  | succ n ih => rw [List.range_succ, List.flatMap_append, List.length_append, ih]; simp [bytesOfHalf]; omega

/-- Reading back field `k` of fields written one after another. -/
theorem Memory.readHalf_halves (f : Nat → Half) (m : Memory) (a : Nat) {n k : Nat} (hk : k < n) :
    (m.writeBytes a ((List.range n).flatMap fun k => bytesOfHalf (f k))).readHalf (a + 2 * k) = f k := by
  induction n with
  | zero => omega
  | succ n ih =>
    rw [List.range_succ, List.flatMap_append, Memory.writeBytes_append, halves_length]
    simp only [List.flatMap_cons, List.flatMap_nil, List.append_nil]
    rcases Nat.lt_or_ge k n with h | h
    · rw [← ih h]
      unfold Memory.readHalf
      rw [Memory.read_writeBytes_outside _ (a + 2 * n) _ (k := a + 2 * k) (by omega),
        Memory.read_writeBytes_outside _ (a + 2 * n) _ (k := a + 2 * k + 1) (by omega)]
    · obtain rfl : k = n := by omega
      exact Memory.readHalf_writeHalf _ _ _

end Sys2Proof.Machine
end

