-- ==== Sys2Proof/Laws/State.lean ====
section
/-!
SUPPORT. One lemma per field per update of State, each true by rfl, so that no proof unfolds a record update; and for
`complete` and `raise` the fields they keep.
-/

namespace Sys2Proof.Machine

open Sys2Proof


/-! `State.nextEvent` -/

@[simp] theorem State.nextEvent_ctrl (s : State) : (s.nextEvent).ctrl = s.ctrl := rfl
@[simp] theorem State.nextEvent_status (s : State) : (s.nextEvent).status = s.status := rfl
@[simp] theorem State.nextEvent_inLen (s : State) : (s.nextEvent).inLen = s.inLen := rfl
@[simp] theorem State.nextEvent_palCount (s : State) : (s.nextEvent).palCount = s.palCount := rfl
@[simp] theorem State.nextEvent_outLen (s : State) : (s.nextEvent).outLen = s.outLen := rfl
@[simp] theorem State.nextEvent_byteCursor (s : State) : (s.nextEvent).byteCursor = s.byteCursor := rfl
@[simp] theorem State.nextEvent_pixCount (s : State) : (s.nextEvent).pixCount = s.pixCount := rfl
@[simp] theorem State.nextEvent_flipCursor (s : State) : (s.nextEvent).flipCursor = s.flipCursor := rfl
@[simp] theorem State.nextEvent_flipLen (s : State) : (s.nextEvent).flipLen = s.flipLen := rfl
@[simp] theorem State.nextEvent_cmd (s : State) : (s.nextEvent).cmd = s.cmd := rfl
@[simp] theorem State.nextEvent_mode (s : State) : (s.nextEvent).mode = s.mode := rfl
@[simp] theorem State.nextEvent_strict (s : State) : (s.nextEvent).strict = s.strict := rfl
@[simp] theorem State.nextEvent_pos (s : State) : (s.nextEvent).pos = s.pos := rfl
@[simp] theorem State.nextEvent_len (s : State) : (s.nextEvent).len = s.len := rfl
@[simp] theorem State.nextEvent_count (s : State) : (s.nextEvent).count = s.count := rfl
@[simp] theorem State.nextEvent_fcur (s : State) : (s.nextEvent).fcur = s.fcur := rfl
@[simp] theorem State.nextEvent_ct (s : State) : (s.nextEvent).ct = s.ct := rfl
@[simp] theorem State.nextEvent_dl (s : State) : (s.nextEvent).dl = s.dl := rfl
@[simp] theorem State.nextEvent_dr (s : State) : (s.nextEvent).dr = s.dr := rfl
@[simp] theorem State.nextEvent_flipL (s : State) : (s.nextEvent).flipL = s.flipL := rfl
@[simp] theorem State.nextEvent_nfb (s : State) : (s.nextEvent).nfb = s.nfb := rfl
@[simp] theorem State.nextEvent_phase (s : State) : (s.nextEvent).phase = s.phase := rfl
@[simp] theorem State.nextEvent_plan (s : State) : (s.nextEvent).plan = s.plan := rfl
@[simp] theorem State.nextEvent_inMem (s : State) : (s.nextEvent).inMem = s.inMem := rfl
@[simp] theorem State.nextEvent_outMem (s : State) : (s.nextEvent).outMem = s.outMem := rfl
@[simp] theorem State.nextEvent_palMem (s : State) : (s.nextEvent).palMem = s.palMem := rfl
@[simp] theorem State.nextEvent_idxMem (s : State) : (s.nextEvent).idxMem = s.idxMem := rfl
@[simp] theorem State.nextEvent_pixMem (s : State) : (s.nextEvent).pixMem = s.pixMem := rfl
@[simp] theorem State.nextEvent_params (s : State) : (s.nextEvent).params = s.params := rfl
@[simp] theorem State.nextEvent_hostQ (s : State) : (s.nextEvent).hostQ = s.hostQ.tail := rfl
@[simp] theorem State.nextEvent_replies (s : State) : (s.nextEvent).replies = s.replies := rfl
@[simp] theorem State.nextEvent_draws (s : State) : (s.nextEvent).draws = s.draws := rfl
@[simp] theorem State.nextEvent_tainted (s : State) : (s.nextEvent).tainted = s.tainted := rfl
@[simp] theorem State.nextEvent_dirtyPix (s : State) : (s.nextEvent).dirtyPix = s.dirtyPix := rfl
@[simp] theorem State.nextEvent_dirtyOut (s : State) : (s.nextEvent).dirtyOut = s.dirtyOut := rfl


/-! `State.emit` -/

@[simp] theorem State.emit_ctrl (s : State) (p : Colour) : (s.emit p).ctrl = s.ctrl := rfl
@[simp] theorem State.emit_status (s : State) (p : Colour) : (s.emit p).status = s.status := rfl
@[simp] theorem State.emit_inLen (s : State) (p : Colour) : (s.emit p).inLen = s.inLen := rfl
@[simp] theorem State.emit_palCount (s : State) (p : Colour) : (s.emit p).palCount = s.palCount := rfl
@[simp] theorem State.emit_outLen (s : State) (p : Colour) : (s.emit p).outLen = s.outLen := rfl
@[simp] theorem State.emit_byteCursor (s : State) (p : Colour) : (s.emit p).byteCursor = s.byteCursor := rfl
@[simp] theorem State.emit_pixCount (s : State) (p : Colour) : (s.emit p).pixCount = s.pixCount := rfl
@[simp] theorem State.emit_flipCursor (s : State) (p : Colour) : (s.emit p).flipCursor = s.flipCursor := rfl
@[simp] theorem State.emit_flipLen (s : State) (p : Colour) : (s.emit p).flipLen = s.flipLen := rfl
@[simp] theorem State.emit_cmd (s : State) (p : Colour) : (s.emit p).cmd = s.cmd := rfl
@[simp] theorem State.emit_mode (s : State) (p : Colour) : (s.emit p).mode = s.mode := rfl
@[simp] theorem State.emit_strict (s : State) (p : Colour) : (s.emit p).strict = s.strict := rfl
@[simp] theorem State.emit_pos (s : State) (p : Colour) : (s.emit p).pos = s.pos := rfl
@[simp] theorem State.emit_len (s : State) (p : Colour) : (s.emit p).len = s.len := rfl
@[simp] theorem State.emit_count (s : State) (p : Colour) : (s.emit p).count = s.count + 1 := rfl
@[simp] theorem State.emit_fcur (s : State) (p : Colour) : (s.emit p).fcur = s.fcur := rfl
@[simp] theorem State.emit_ct (s : State) (p : Colour) : (s.emit p).ct = s.ct := rfl
@[simp] theorem State.emit_dl (s : State) (p : Colour) : (s.emit p).dl = s.dl := rfl
@[simp] theorem State.emit_dr (s : State) (p : Colour) : (s.emit p).dr = s.dr := rfl
@[simp] theorem State.emit_flipL (s : State) (p : Colour) : (s.emit p).flipL = s.flipL := rfl
@[simp] theorem State.emit_nfb (s : State) (p : Colour) : (s.emit p).nfb = s.nfb := rfl
@[simp] theorem State.emit_phase (s : State) (p : Colour) : (s.emit p).phase = s.phase := rfl
@[simp] theorem State.emit_plan (s : State) (p : Colour) : (s.emit p).plan = s.plan := rfl
@[simp] theorem State.emit_inMem (s : State) (p : Colour) : (s.emit p).inMem = s.inMem := rfl
@[simp] theorem State.emit_outMem (s : State) (p : Colour) : (s.emit p).outMem = s.outMem := rfl
@[simp] theorem State.emit_palMem (s : State) (p : Colour) : (s.emit p).palMem = s.palMem := rfl
@[simp] theorem State.emit_idxMem (s : State) (p : Colour) : (s.emit p).idxMem = s.idxMem := rfl
@[simp] theorem State.emit_pixMem (s : State) (p : Colour) : (s.emit p).pixMem = s.pixMem.writeHalf (2 * s.count) (p.setWidth 16) := rfl
@[simp] theorem State.emit_params (s : State) (p : Colour) : (s.emit p).params = s.params := rfl
@[simp] theorem State.emit_hostQ (s : State) (p : Colour) : (s.emit p).hostQ = s.hostQ := rfl
@[simp] theorem State.emit_replies (s : State) (p : Colour) : (s.emit p).replies = s.replies := rfl
@[simp] theorem State.emit_draws (s : State) (p : Colour) : (s.emit p).draws = s.draws := rfl
@[simp] theorem State.emit_tainted (s : State) (p : Colour) : (s.emit p).tainted = s.tainted := rfl
@[simp] theorem State.emit_dirtyPix (s : State) (p : Colour) : (s.emit p).dirtyPix = s.dirtyPix := rfl
@[simp] theorem State.emit_dirtyOut (s : State) (p : Colour) : (s.emit p).dirtyOut = s.dirtyOut := rfl


/-! `State.putOut` -/

@[simp] theorem State.putOut_ctrl (s : State) (a : Nat) (bs : List Byte) : (s.putOut a bs).ctrl = s.ctrl := rfl
@[simp] theorem State.putOut_status (s : State) (a : Nat) (bs : List Byte) : (s.putOut a bs).status = s.status := rfl
@[simp] theorem State.putOut_inLen (s : State) (a : Nat) (bs : List Byte) : (s.putOut a bs).inLen = s.inLen := rfl
@[simp] theorem State.putOut_palCount (s : State) (a : Nat) (bs : List Byte) : (s.putOut a bs).palCount = s.palCount := rfl
@[simp] theorem State.putOut_outLen (s : State) (a : Nat) (bs : List Byte) : (s.putOut a bs).outLen = s.outLen := rfl
@[simp] theorem State.putOut_byteCursor (s : State) (a : Nat) (bs : List Byte) : (s.putOut a bs).byteCursor = s.byteCursor := rfl
@[simp] theorem State.putOut_pixCount (s : State) (a : Nat) (bs : List Byte) : (s.putOut a bs).pixCount = s.pixCount := rfl
@[simp] theorem State.putOut_flipCursor (s : State) (a : Nat) (bs : List Byte) : (s.putOut a bs).flipCursor = s.flipCursor := rfl
@[simp] theorem State.putOut_flipLen (s : State) (a : Nat) (bs : List Byte) : (s.putOut a bs).flipLen = s.flipLen := rfl
@[simp] theorem State.putOut_cmd (s : State) (a : Nat) (bs : List Byte) : (s.putOut a bs).cmd = s.cmd := rfl
@[simp] theorem State.putOut_mode (s : State) (a : Nat) (bs : List Byte) : (s.putOut a bs).mode = s.mode := rfl
@[simp] theorem State.putOut_strict (s : State) (a : Nat) (bs : List Byte) : (s.putOut a bs).strict = s.strict := rfl
@[simp] theorem State.putOut_pos (s : State) (a : Nat) (bs : List Byte) : (s.putOut a bs).pos = s.pos := rfl
@[simp] theorem State.putOut_len (s : State) (a : Nat) (bs : List Byte) : (s.putOut a bs).len = s.len := rfl
@[simp] theorem State.putOut_count (s : State) (a : Nat) (bs : List Byte) : (s.putOut a bs).count = s.count := rfl
@[simp] theorem State.putOut_fcur (s : State) (a : Nat) (bs : List Byte) : (s.putOut a bs).fcur = s.fcur := rfl
@[simp] theorem State.putOut_ct (s : State) (a : Nat) (bs : List Byte) : (s.putOut a bs).ct = s.ct := rfl
@[simp] theorem State.putOut_dl (s : State) (a : Nat) (bs : List Byte) : (s.putOut a bs).dl = s.dl := rfl
@[simp] theorem State.putOut_dr (s : State) (a : Nat) (bs : List Byte) : (s.putOut a bs).dr = s.dr := rfl
@[simp] theorem State.putOut_flipL (s : State) (a : Nat) (bs : List Byte) : (s.putOut a bs).flipL = s.flipL := rfl
@[simp] theorem State.putOut_nfb (s : State) (a : Nat) (bs : List Byte) : (s.putOut a bs).nfb = s.nfb := rfl
@[simp] theorem State.putOut_phase (s : State) (a : Nat) (bs : List Byte) : (s.putOut a bs).phase = s.phase := rfl
@[simp] theorem State.putOut_plan (s : State) (a : Nat) (bs : List Byte) : (s.putOut a bs).plan = s.plan := rfl
@[simp] theorem State.putOut_inMem (s : State) (a : Nat) (bs : List Byte) : (s.putOut a bs).inMem = s.inMem := rfl
@[simp] theorem State.putOut_outMem (s : State) (a : Nat) (bs : List Byte) : (s.putOut a bs).outMem = s.outMem.writeBytes a bs := rfl
@[simp] theorem State.putOut_palMem (s : State) (a : Nat) (bs : List Byte) : (s.putOut a bs).palMem = s.palMem := rfl
@[simp] theorem State.putOut_idxMem (s : State) (a : Nat) (bs : List Byte) : (s.putOut a bs).idxMem = s.idxMem := rfl
@[simp] theorem State.putOut_pixMem (s : State) (a : Nat) (bs : List Byte) : (s.putOut a bs).pixMem = s.pixMem := rfl
@[simp] theorem State.putOut_params (s : State) (a : Nat) (bs : List Byte) : (s.putOut a bs).params = s.params := rfl
@[simp] theorem State.putOut_hostQ (s : State) (a : Nat) (bs : List Byte) : (s.putOut a bs).hostQ = s.hostQ := rfl
@[simp] theorem State.putOut_replies (s : State) (a : Nat) (bs : List Byte) : (s.putOut a bs).replies = s.replies := rfl
@[simp] theorem State.putOut_draws (s : State) (a : Nat) (bs : List Byte) : (s.putOut a bs).draws = s.draws := rfl
@[simp] theorem State.putOut_tainted (s : State) (a : Nat) (bs : List Byte) : (s.putOut a bs).tainted = s.tainted := rfl
@[simp] theorem State.putOut_dirtyPix (s : State) (a : Nat) (bs : List Byte) : (s.putOut a bs).dirtyPix = s.dirtyPix := rfl
@[simp] theorem State.putOut_dirtyOut (s : State) (a : Nat) (bs : List Byte) : (s.putOut a bs).dirtyOut = s.dirtyOut := rfl


/-! `State.start` -/

@[simp] theorem State.start_ctrl (s : State) (c : BitVec 3) (m k : Bool) : (s.start c m k).ctrl = ctrlWord c m k := rfl
@[simp] theorem State.start_status (s : State) (c : BitVec 3) (m k : Bool) : (s.start c m k).status = busyStatus := rfl
@[simp] theorem State.start_inLen (s : State) (c : BitVec 3) (m k : Bool) : (s.start c m k).inLen = s.inLen := rfl
@[simp] theorem State.start_palCount (s : State) (c : BitVec 3) (m k : Bool) : (s.start c m k).palCount = s.palCount := rfl
@[simp] theorem State.start_outLen (s : State) (c : BitVec 3) (m k : Bool) : (s.start c m k).outLen = 0#32 := rfl
@[simp] theorem State.start_byteCursor (s : State) (c : BitVec 3) (m k : Bool) : (s.start c m k).byteCursor = 0#32 := rfl
@[simp] theorem State.start_pixCount (s : State) (c : BitVec 3) (m k : Bool) : (s.start c m k).pixCount = 0#32 := rfl
@[simp] theorem State.start_flipCursor (s : State) (c : BitVec 3) (m k : Bool) : (s.start c m k).flipCursor = 0#32 := rfl
@[simp] theorem State.start_flipLen (s : State) (c : BitVec 3) (m k : Bool) : (s.start c m k).flipLen = 0#32 := rfl
@[simp] theorem State.start_cmd (s : State) (c : BitVec 3) (m k : Bool) : (s.start c m k).cmd = c := rfl
@[simp] theorem State.start_mode (s : State) (c : BitVec 3) (m k : Bool) : (s.start c m k).mode = m := rfl
@[simp] theorem State.start_strict (s : State) (c : BitVec 3) (m k : Bool) : (s.start c m k).strict = k := rfl
@[simp] theorem State.start_pos (s : State) (c : BitVec 3) (m k : Bool) : (s.start c m k).pos = 0 := rfl
@[simp] theorem State.start_len (s : State) (c : BitVec 3) (m k : Bool) : (s.start c m k).len = s.inLen.toNat := rfl
@[simp] theorem State.start_count (s : State) (c : BitVec 3) (m k : Bool) : (s.start c m k).count = 0 := rfl
@[simp] theorem State.start_fcur (s : State) (c : BitVec 3) (m k : Bool) : (s.start c m k).fcur = 0 := rfl
@[simp] theorem State.start_ct (s : State) (c : BitVec 3) (m k : Bool) : (s.start c m k).ct = s.ct := rfl
@[simp] theorem State.start_dl (s : State) (c : BitVec 3) (m k : Bool) : (s.start c m k).dl = s.dl := rfl
@[simp] theorem State.start_dr (s : State) (c : BitVec 3) (m k : Bool) : (s.start c m k).dr = s.dr := rfl
@[simp] theorem State.start_flipL (s : State) (c : BitVec 3) (m k : Bool) : (s.start c m k).flipL = 0#16 := rfl
@[simp] theorem State.start_nfb (s : State) (c : BitVec 3) (m k : Bool) : (s.start c m k).nfb = s.nfb := rfl
@[simp] theorem State.start_phase (s : State) (c : BitVec 3) (m k : Bool) : (s.start c m k).phase = s.phase := rfl
@[simp] theorem State.start_plan (s : State) (c : BitVec 3) (m k : Bool) : (s.start c m k).plan = s.plan := rfl
@[simp] theorem State.start_inMem (s : State) (c : BitVec 3) (m k : Bool) : (s.start c m k).inMem = s.inMem := rfl
@[simp] theorem State.start_outMem (s : State) (c : BitVec 3) (m k : Bool) : (s.start c m k).outMem = s.outMem := rfl
@[simp] theorem State.start_palMem (s : State) (c : BitVec 3) (m k : Bool) : (s.start c m k).palMem = s.palMem := rfl
@[simp] theorem State.start_idxMem (s : State) (c : BitVec 3) (m k : Bool) : (s.start c m k).idxMem = s.idxMem := rfl
@[simp] theorem State.start_pixMem (s : State) (c : BitVec 3) (m k : Bool) : (s.start c m k).pixMem = s.pixMem := rfl
@[simp] theorem State.start_params (s : State) (c : BitVec 3) (m k : Bool) : (s.start c m k).params = s.params := rfl
@[simp] theorem State.start_hostQ (s : State) (c : BitVec 3) (m k : Bool) : (s.start c m k).hostQ = s.hostQ := rfl
@[simp] theorem State.start_replies (s : State) (c : BitVec 3) (m k : Bool) : (s.start c m k).replies = s.replies := rfl
@[simp] theorem State.start_draws (s : State) (c : BitVec 3) (m k : Bool) : (s.start c m k).draws = s.draws := rfl
@[simp] theorem State.start_tainted (s : State) (c : BitVec 3) (m k : Bool) : (s.start c m k).tainted = s.tainted := rfl
@[simp] theorem State.start_dirtyPix (s : State) (c : BitVec 3) (m k : Bool) : (s.start c m k).dirtyPix = s.dirtyPix := rfl
@[simp] theorem State.start_dirtyOut (s : State) (c : BitVec 3) (m k : Bool) : (s.start c m k).dirtyOut = s.dirtyOut := rfl


/-! `State.reportResult` -/

@[simp] theorem State.reportResult_ctrl (s : State) (r : Result) : (s.reportResult r).ctrl = s.ctrl := rfl
@[simp] theorem State.reportResult_status (s : State) (r : Result) : (s.reportResult r).status = r.status := rfl
@[simp] theorem State.reportResult_inLen (s : State) (r : Result) : (s.reportResult r).inLen = s.inLen := rfl
@[simp] theorem State.reportResult_palCount (s : State) (r : Result) : (s.reportResult r).palCount = s.palCount := rfl
@[simp] theorem State.reportResult_outLen (s : State) (r : Result) : (s.reportResult r).outLen = BitVec.ofNat 32 r.outLen := rfl
@[simp] theorem State.reportResult_byteCursor (s : State) (r : Result) : (s.reportResult r).byteCursor = BitVec.ofNat 32 s.pos := rfl
@[simp] theorem State.reportResult_pixCount (s : State) (r : Result) : (s.reportResult r).pixCount = BitVec.ofNat 32 s.count := rfl
@[simp] theorem State.reportResult_flipCursor (s : State) (r : Result) : (s.reportResult r).flipCursor = BitVec.ofNat 32 s.fcur := rfl
@[simp] theorem State.reportResult_flipLen (s : State) (r : Result) : (s.reportResult r).flipLen = s.flipL.setWidth 32 := rfl
@[simp] theorem State.reportResult_cmd (s : State) (r : Result) : (s.reportResult r).cmd = s.cmd := rfl
@[simp] theorem State.reportResult_mode (s : State) (r : Result) : (s.reportResult r).mode = s.mode := rfl
@[simp] theorem State.reportResult_strict (s : State) (r : Result) : (s.reportResult r).strict = s.strict := rfl
@[simp] theorem State.reportResult_pos (s : State) (r : Result) : (s.reportResult r).pos = s.pos := rfl
@[simp] theorem State.reportResult_len (s : State) (r : Result) : (s.reportResult r).len = s.len := rfl
@[simp] theorem State.reportResult_count (s : State) (r : Result) : (s.reportResult r).count = s.count := rfl
@[simp] theorem State.reportResult_fcur (s : State) (r : Result) : (s.reportResult r).fcur = s.fcur := rfl
@[simp] theorem State.reportResult_ct (s : State) (r : Result) : (s.reportResult r).ct = s.ct := rfl
@[simp] theorem State.reportResult_dl (s : State) (r : Result) : (s.reportResult r).dl = s.dl := rfl
@[simp] theorem State.reportResult_dr (s : State) (r : Result) : (s.reportResult r).dr = s.dr := rfl
@[simp] theorem State.reportResult_flipL (s : State) (r : Result) : (s.reportResult r).flipL = s.flipL := rfl
@[simp] theorem State.reportResult_nfb (s : State) (r : Result) : (s.reportResult r).nfb = s.nfb := rfl
@[simp] theorem State.reportResult_phase (s : State) (r : Result) : (s.reportResult r).phase = s.phase := rfl
@[simp] theorem State.reportResult_plan (s : State) (r : Result) : (s.reportResult r).plan = s.plan := rfl
@[simp] theorem State.reportResult_inMem (s : State) (r : Result) : (s.reportResult r).inMem = s.inMem := rfl
@[simp] theorem State.reportResult_outMem (s : State) (r : Result) : (s.reportResult r).outMem = s.outMem := rfl
@[simp] theorem State.reportResult_palMem (s : State) (r : Result) : (s.reportResult r).palMem = s.palMem := rfl
@[simp] theorem State.reportResult_idxMem (s : State) (r : Result) : (s.reportResult r).idxMem = s.idxMem := rfl
@[simp] theorem State.reportResult_pixMem (s : State) (r : Result) : (s.reportResult r).pixMem = s.pixMem := rfl
@[simp] theorem State.reportResult_params (s : State) (r : Result) : (s.reportResult r).params = s.params := rfl
@[simp] theorem State.reportResult_hostQ (s : State) (r : Result) : (s.reportResult r).hostQ = s.hostQ := rfl
@[simp] theorem State.reportResult_replies (s : State) (r : Result) : (s.reportResult r).replies = s.replies := rfl
@[simp] theorem State.reportResult_draws (s : State) (r : Result) : (s.reportResult r).draws = s.draws := rfl
@[simp] theorem State.reportResult_tainted (s : State) (r : Result) : (s.reportResult r).tainted = s.tainted := rfl
@[simp] theorem State.reportResult_dirtyPix (s : State) (r : Result) : (s.reportResult r).dirtyPix = s.dirtyPix := rfl
@[simp] theorem State.reportResult_dirtyOut (s : State) (r : Result) : (s.reportResult r).dirtyOut = s.dirtyOut := rfl


/-! `State.reportFree` -/

@[simp] theorem State.reportFree_ctrl (s : State) : (s.reportFree).ctrl = s.ctrl := rfl
@[simp] theorem State.reportFree_status (s : State) : (s.reportFree).status = freeStatus (Config.freeWord s.draws) := rfl
@[simp] theorem State.reportFree_inLen (s : State) : (s.reportFree).inLen = s.inLen := rfl
@[simp] theorem State.reportFree_palCount (s : State) : (s.reportFree).palCount = s.palCount := rfl
@[simp] theorem State.reportFree_outLen (s : State) : (s.reportFree).outLen = Config.freeWord (s.draws + 1) := rfl
@[simp] theorem State.reportFree_byteCursor (s : State) : (s.reportFree).byteCursor = Config.freeWord (s.draws + 2) := rfl
@[simp] theorem State.reportFree_pixCount (s : State) : (s.reportFree).pixCount = Config.freeWord (s.draws + 3) := rfl
@[simp] theorem State.reportFree_flipCursor (s : State) : (s.reportFree).flipCursor = Config.freeWord (s.draws + 4) := rfl
@[simp] theorem State.reportFree_flipLen (s : State) : (s.reportFree).flipLen = ((Config.freeWord (s.draws + 5)).setWidth 16).setWidth 32 := rfl
@[simp] theorem State.reportFree_cmd (s : State) : (s.reportFree).cmd = s.cmd := rfl
@[simp] theorem State.reportFree_mode (s : State) : (s.reportFree).mode = s.mode := rfl
@[simp] theorem State.reportFree_strict (s : State) : (s.reportFree).strict = s.strict := rfl
@[simp] theorem State.reportFree_pos (s : State) : (s.reportFree).pos = s.pos := rfl
@[simp] theorem State.reportFree_len (s : State) : (s.reportFree).len = s.len := rfl
@[simp] theorem State.reportFree_count (s : State) : (s.reportFree).count = s.count := rfl
@[simp] theorem State.reportFree_fcur (s : State) : (s.reportFree).fcur = s.fcur := rfl
@[simp] theorem State.reportFree_ct (s : State) : (s.reportFree).ct = s.ct := rfl
@[simp] theorem State.reportFree_dl (s : State) : (s.reportFree).dl = s.dl := rfl
@[simp] theorem State.reportFree_dr (s : State) : (s.reportFree).dr = s.dr := rfl
@[simp] theorem State.reportFree_flipL (s : State) : (s.reportFree).flipL = s.flipL := rfl
@[simp] theorem State.reportFree_nfb (s : State) : (s.reportFree).nfb = s.nfb := rfl
@[simp] theorem State.reportFree_phase (s : State) : (s.reportFree).phase = s.phase := rfl
@[simp] theorem State.reportFree_plan (s : State) : (s.reportFree).plan = s.plan := rfl
@[simp] theorem State.reportFree_inMem (s : State) : (s.reportFree).inMem = s.inMem := rfl
@[simp] theorem State.reportFree_outMem (s : State) : (s.reportFree).outMem = s.outMem.fill (s.draws + 6 + pixBytes) (List.range s.params.outCap) := rfl
@[simp] theorem State.reportFree_palMem (s : State) : (s.reportFree).palMem = s.palMem := rfl
@[simp] theorem State.reportFree_idxMem (s : State) : (s.reportFree).idxMem = s.idxMem := rfl
@[simp] theorem State.reportFree_pixMem (s : State) : (s.reportFree).pixMem = s.pixMem.fill (s.draws + 6) (List.range pixBytes) := rfl
@[simp] theorem State.reportFree_params (s : State) : (s.reportFree).params = s.params := rfl
@[simp] theorem State.reportFree_hostQ (s : State) : (s.reportFree).hostQ = s.hostQ := rfl
@[simp] theorem State.reportFree_replies (s : State) : (s.reportFree).replies = s.replies := rfl
@[simp] theorem State.reportFree_draws (s : State) : (s.reportFree).draws = s.draws + 6 + pixBytes + s.params.outCap := rfl
@[simp] theorem State.reportFree_tainted (s : State) : (s.reportFree).tainted = s.tainted := rfl
@[simp] theorem State.reportFree_dirtyPix (s : State) : (s.reportFree).dirtyPix = s.dirtyPix := rfl
@[simp] theorem State.reportFree_dirtyOut (s : State) : (s.reportFree).dirtyOut = s.dirtyOut := rfl


/-! `State.settleDirty` -/

@[simp] theorem State.settleDirty_ctrl (s : State) : (s.settleDirty).ctrl = s.ctrl := rfl
@[simp] theorem State.settleDirty_status (s : State) : (s.settleDirty).status = s.status := rfl
@[simp] theorem State.settleDirty_inLen (s : State) : (s.settleDirty).inLen = s.inLen := rfl
@[simp] theorem State.settleDirty_palCount (s : State) : (s.settleDirty).palCount = s.palCount := rfl
@[simp] theorem State.settleDirty_outLen (s : State) : (s.settleDirty).outLen = s.outLen := rfl
@[simp] theorem State.settleDirty_byteCursor (s : State) : (s.settleDirty).byteCursor = s.byteCursor := rfl
@[simp] theorem State.settleDirty_pixCount (s : State) : (s.settleDirty).pixCount = s.pixCount := rfl
@[simp] theorem State.settleDirty_flipCursor (s : State) : (s.settleDirty).flipCursor = s.flipCursor := rfl
@[simp] theorem State.settleDirty_flipLen (s : State) : (s.settleDirty).flipLen = s.flipLen := rfl
@[simp] theorem State.settleDirty_cmd (s : State) : (s.settleDirty).cmd = s.cmd := rfl
@[simp] theorem State.settleDirty_mode (s : State) : (s.settleDirty).mode = s.mode := rfl
@[simp] theorem State.settleDirty_strict (s : State) : (s.settleDirty).strict = s.strict := rfl
@[simp] theorem State.settleDirty_pos (s : State) : (s.settleDirty).pos = s.pos := rfl
@[simp] theorem State.settleDirty_len (s : State) : (s.settleDirty).len = s.len := rfl
@[simp] theorem State.settleDirty_count (s : State) : (s.settleDirty).count = s.count := rfl
@[simp] theorem State.settleDirty_fcur (s : State) : (s.settleDirty).fcur = s.fcur := rfl
@[simp] theorem State.settleDirty_ct (s : State) : (s.settleDirty).ct = s.ct := rfl
@[simp] theorem State.settleDirty_dl (s : State) : (s.settleDirty).dl = s.dl := rfl
@[simp] theorem State.settleDirty_dr (s : State) : (s.settleDirty).dr = s.dr := rfl
@[simp] theorem State.settleDirty_flipL (s : State) : (s.settleDirty).flipL = s.flipL := rfl
@[simp] theorem State.settleDirty_nfb (s : State) : (s.settleDirty).nfb = s.nfb := rfl
@[simp] theorem State.settleDirty_phase (s : State) : (s.settleDirty).phase = s.phase := rfl
@[simp] theorem State.settleDirty_plan (s : State) : (s.settleDirty).plan = s.plan := rfl
@[simp] theorem State.settleDirty_inMem (s : State) : (s.settleDirty).inMem = s.inMem := rfl
@[simp] theorem State.settleDirty_outMem (s : State) : (s.settleDirty).outMem = s.outMem.fill (s.draws + pixBytes) s.dirtyOut := rfl
@[simp] theorem State.settleDirty_palMem (s : State) : (s.settleDirty).palMem = s.palMem := rfl
@[simp] theorem State.settleDirty_idxMem (s : State) : (s.settleDirty).idxMem = s.idxMem := rfl
@[simp] theorem State.settleDirty_pixMem (s : State) : (s.settleDirty).pixMem = s.pixMem.fill s.draws s.dirtyPix := rfl
@[simp] theorem State.settleDirty_params (s : State) : (s.settleDirty).params = s.params := rfl
@[simp] theorem State.settleDirty_hostQ (s : State) : (s.settleDirty).hostQ = s.hostQ := rfl
@[simp] theorem State.settleDirty_replies (s : State) : (s.settleDirty).replies = s.replies := rfl
@[simp] theorem State.settleDirty_draws (s : State) : (s.settleDirty).draws = s.draws + pixBytes + s.params.outCap := rfl
@[simp] theorem State.settleDirty_tainted (s : State) : (s.settleDirty).tainted = s.tainted := rfl
@[simp] theorem State.settleDirty_dirtyPix (s : State) : (s.settleDirty).dirtyPix = [] := rfl
@[simp] theorem State.settleDirty_dirtyOut (s : State) : (s.settleDirty).dirtyOut = [] := rfl


/-! `State.loosePixels` -/

@[simp] theorem State.loosePixels_ctrl (s : State) : (s.loosePixels).ctrl = s.ctrl := rfl
@[simp] theorem State.loosePixels_status (s : State) : (s.loosePixels).status = s.status := rfl
@[simp] theorem State.loosePixels_inLen (s : State) : (s.loosePixels).inLen = s.inLen := rfl
@[simp] theorem State.loosePixels_palCount (s : State) : (s.loosePixels).palCount = s.palCount := rfl
@[simp] theorem State.loosePixels_outLen (s : State) : (s.loosePixels).outLen = s.outLen := rfl
@[simp] theorem State.loosePixels_byteCursor (s : State) : (s.loosePixels).byteCursor = s.byteCursor := rfl
@[simp] theorem State.loosePixels_pixCount (s : State) : (s.loosePixels).pixCount = s.pixCount := rfl
@[simp] theorem State.loosePixels_flipCursor (s : State) : (s.loosePixels).flipCursor = s.flipCursor := rfl
@[simp] theorem State.loosePixels_flipLen (s : State) : (s.loosePixels).flipLen = s.flipLen := rfl
@[simp] theorem State.loosePixels_cmd (s : State) : (s.loosePixels).cmd = s.cmd := rfl
@[simp] theorem State.loosePixels_mode (s : State) : (s.loosePixels).mode = s.mode := rfl
@[simp] theorem State.loosePixels_strict (s : State) : (s.loosePixels).strict = s.strict := rfl
@[simp] theorem State.loosePixels_pos (s : State) : (s.loosePixels).pos = s.pos := rfl
@[simp] theorem State.loosePixels_len (s : State) : (s.loosePixels).len = s.len := rfl
@[simp] theorem State.loosePixels_count (s : State) : (s.loosePixels).count = s.count := rfl
@[simp] theorem State.loosePixels_fcur (s : State) : (s.loosePixels).fcur = s.fcur := rfl
@[simp] theorem State.loosePixels_ct (s : State) : (s.loosePixels).ct = s.ct := rfl
@[simp] theorem State.loosePixels_dl (s : State) : (s.loosePixels).dl = s.dl := rfl
@[simp] theorem State.loosePixels_dr (s : State) : (s.loosePixels).dr = s.dr := rfl
@[simp] theorem State.loosePixels_flipL (s : State) : (s.loosePixels).flipL = s.flipL := rfl
@[simp] theorem State.loosePixels_nfb (s : State) : (s.loosePixels).nfb = s.nfb := rfl
@[simp] theorem State.loosePixels_phase (s : State) : (s.loosePixels).phase = s.phase := rfl
@[simp] theorem State.loosePixels_plan (s : State) : (s.loosePixels).plan = s.plan := rfl
@[simp] theorem State.loosePixels_inMem (s : State) : (s.loosePixels).inMem = s.inMem := rfl
@[simp] theorem State.loosePixels_outMem (s : State) : (s.loosePixels).outMem = s.outMem := rfl
@[simp] theorem State.loosePixels_palMem (s : State) : (s.loosePixels).palMem = s.palMem := rfl
@[simp] theorem State.loosePixels_idxMem (s : State) : (s.loosePixels).idxMem = s.idxMem := rfl
@[simp] theorem State.loosePixels_pixMem (s : State) : (s.loosePixels).pixMem = s.pixMem.fill s.draws (List.range' (2 * s.count) (pixBytes - 2 * s.count)) := rfl
@[simp] theorem State.loosePixels_params (s : State) : (s.loosePixels).params = s.params := rfl
@[simp] theorem State.loosePixels_hostQ (s : State) : (s.loosePixels).hostQ = s.hostQ := rfl
@[simp] theorem State.loosePixels_replies (s : State) : (s.loosePixels).replies = s.replies := rfl
@[simp] theorem State.loosePixels_draws (s : State) : (s.loosePixels).draws = s.draws + pixBytes := rfl
@[simp] theorem State.loosePixels_tainted (s : State) : (s.loosePixels).tainted = s.tainted := rfl
@[simp] theorem State.loosePixels_dirtyPix (s : State) : (s.loosePixels).dirtyPix = s.dirtyPix := rfl
@[simp] theorem State.loosePixels_dirtyOut (s : State) : (s.loosePixels).dirtyOut = s.dirtyOut := rfl


/-! `State.moveTo` -/

@[simp] theorem State.moveTo_ctrl (s : State) (k : Nat) : (s.moveTo k).ctrl = s.ctrl := rfl
@[simp] theorem State.moveTo_status (s : State) (k : Nat) : (s.moveTo k).status = s.status := rfl
@[simp] theorem State.moveTo_inLen (s : State) (k : Nat) : (s.moveTo k).inLen = s.inLen := rfl
@[simp] theorem State.moveTo_palCount (s : State) (k : Nat) : (s.moveTo k).palCount = s.palCount := rfl
@[simp] theorem State.moveTo_outLen (s : State) (k : Nat) : (s.moveTo k).outLen = s.outLen := rfl
@[simp] theorem State.moveTo_byteCursor (s : State) (k : Nat) : (s.moveTo k).byteCursor = s.byteCursor := rfl
@[simp] theorem State.moveTo_pixCount (s : State) (k : Nat) : (s.moveTo k).pixCount = s.pixCount := rfl
@[simp] theorem State.moveTo_flipCursor (s : State) (k : Nat) : (s.moveTo k).flipCursor = s.flipCursor := rfl
@[simp] theorem State.moveTo_flipLen (s : State) (k : Nat) : (s.moveTo k).flipLen = s.flipLen := rfl
@[simp] theorem State.moveTo_cmd (s : State) (k : Nat) : (s.moveTo k).cmd = s.cmd := rfl
@[simp] theorem State.moveTo_mode (s : State) (k : Nat) : (s.moveTo k).mode = s.mode := rfl
@[simp] theorem State.moveTo_strict (s : State) (k : Nat) : (s.moveTo k).strict = s.strict := rfl
@[simp] theorem State.moveTo_pos (s : State) (k : Nat) : (s.moveTo k).pos = k := rfl
@[simp] theorem State.moveTo_len (s : State) (k : Nat) : (s.moveTo k).len = s.len := rfl
@[simp] theorem State.moveTo_count (s : State) (k : Nat) : (s.moveTo k).count = s.count := rfl
@[simp] theorem State.moveTo_fcur (s : State) (k : Nat) : (s.moveTo k).fcur = s.fcur := rfl
@[simp] theorem State.moveTo_ct (s : State) (k : Nat) : (s.moveTo k).ct = s.ct := rfl
@[simp] theorem State.moveTo_dl (s : State) (k : Nat) : (s.moveTo k).dl = s.dl := rfl
@[simp] theorem State.moveTo_dr (s : State) (k : Nat) : (s.moveTo k).dr = s.dr := rfl
@[simp] theorem State.moveTo_flipL (s : State) (k : Nat) : (s.moveTo k).flipL = s.flipL := rfl
@[simp] theorem State.moveTo_nfb (s : State) (k : Nat) : (s.moveTo k).nfb = s.nfb := rfl
@[simp] theorem State.moveTo_phase (s : State) (k : Nat) : (s.moveTo k).phase = s.phase := rfl
@[simp] theorem State.moveTo_plan (s : State) (k : Nat) : (s.moveTo k).plan = s.plan := rfl
@[simp] theorem State.moveTo_inMem (s : State) (k : Nat) : (s.moveTo k).inMem = s.inMem := rfl
@[simp] theorem State.moveTo_outMem (s : State) (k : Nat) : (s.moveTo k).outMem = s.outMem := rfl
@[simp] theorem State.moveTo_palMem (s : State) (k : Nat) : (s.moveTo k).palMem = s.palMem := rfl
@[simp] theorem State.moveTo_idxMem (s : State) (k : Nat) : (s.moveTo k).idxMem = s.idxMem := rfl
@[simp] theorem State.moveTo_pixMem (s : State) (k : Nat) : (s.moveTo k).pixMem = s.pixMem := rfl
@[simp] theorem State.moveTo_params (s : State) (k : Nat) : (s.moveTo k).params = s.params := rfl
@[simp] theorem State.moveTo_hostQ (s : State) (k : Nat) : (s.moveTo k).hostQ = s.hostQ := rfl
@[simp] theorem State.moveTo_replies (s : State) (k : Nat) : (s.moveTo k).replies = s.replies := rfl
@[simp] theorem State.moveTo_draws (s : State) (k : Nat) : (s.moveTo k).draws = s.draws := rfl
@[simp] theorem State.moveTo_tainted (s : State) (k : Nat) : (s.moveTo k).tainted = s.tainted := rfl
@[simp] theorem State.moveTo_dirtyPix (s : State) (k : Nat) : (s.moveTo k).dirtyPix = s.dirtyPix := rfl
@[simp] theorem State.moveTo_dirtyOut (s : State) (k : Nat) : (s.moveTo k).dirtyOut = s.dirtyOut := rfl


/-! `State.enterSections` -/

@[simp] theorem State.enterSections_ctrl (s : State) : (s.enterSections).ctrl = s.ctrl := rfl
@[simp] theorem State.enterSections_status (s : State) : (s.enterSections).status = s.status := rfl
@[simp] theorem State.enterSections_inLen (s : State) : (s.enterSections).inLen = s.inLen := rfl
@[simp] theorem State.enterSections_palCount (s : State) : (s.enterSections).palCount = s.palCount := rfl
@[simp] theorem State.enterSections_outLen (s : State) : (s.enterSections).outLen = s.outLen := rfl
@[simp] theorem State.enterSections_byteCursor (s : State) : (s.enterSections).byteCursor = s.byteCursor := rfl
@[simp] theorem State.enterSections_pixCount (s : State) : (s.enterSections).pixCount = s.pixCount := rfl
@[simp] theorem State.enterSections_flipCursor (s : State) : (s.enterSections).flipCursor = s.flipCursor := rfl
@[simp] theorem State.enterSections_flipLen (s : State) : (s.enterSections).flipLen = s.flipLen := rfl
@[simp] theorem State.enterSections_cmd (s : State) : (s.enterSections).cmd = s.cmd := rfl
@[simp] theorem State.enterSections_mode (s : State) : (s.enterSections).mode = s.mode := rfl
@[simp] theorem State.enterSections_strict (s : State) : (s.enterSections).strict = s.strict := rfl
@[simp] theorem State.enterSections_pos (s : State) : (s.enterSections).pos = s.pos := rfl
@[simp] theorem State.enterSections_len (s : State) : (s.enterSections).len = s.len := rfl
@[simp] theorem State.enterSections_count (s : State) : (s.enterSections).count = s.count := rfl
@[simp] theorem State.enterSections_fcur (s : State) : (s.enterSections).fcur = s.fcur := rfl
@[simp] theorem State.enterSections_ct (s : State) : (s.enterSections).ct = s.ct := rfl
@[simp] theorem State.enterSections_dl (s : State) : (s.enterSections).dl = s.dl := rfl
@[simp] theorem State.enterSections_dr (s : State) : (s.enterSections).dr = s.dr := rfl
@[simp] theorem State.enterSections_flipL (s : State) : (s.enterSections).flipL = s.flipL := rfl
@[simp] theorem State.enterSections_nfb (s : State) : (s.enterSections).nfb = s.nfb := rfl
@[simp] theorem State.enterSections_phase (s : State) : (s.enterSections).phase = Phase.ct := rfl
@[simp] theorem State.enterSections_plan (s : State) : (s.enterSections).plan = s.plan := rfl
@[simp] theorem State.enterSections_inMem (s : State) : (s.enterSections).inMem = s.inMem := rfl
@[simp] theorem State.enterSections_outMem (s : State) : (s.enterSections).outMem = s.outMem := rfl
@[simp] theorem State.enterSections_palMem (s : State) : (s.enterSections).palMem = s.palMem := rfl
@[simp] theorem State.enterSections_idxMem (s : State) : (s.enterSections).idxMem = s.idxMem := rfl
@[simp] theorem State.enterSections_pixMem (s : State) : (s.enterSections).pixMem = s.pixMem := rfl
@[simp] theorem State.enterSections_params (s : State) : (s.enterSections).params = s.params := rfl
@[simp] theorem State.enterSections_hostQ (s : State) : (s.enterSections).hostQ = s.hostQ := rfl
@[simp] theorem State.enterSections_replies (s : State) : (s.enterSections).replies = s.replies := rfl
@[simp] theorem State.enterSections_draws (s : State) : (s.enterSections).draws = s.draws := rfl
@[simp] theorem State.enterSections_tainted (s : State) : (s.enterSections).tainted = s.tainted := rfl
@[simp] theorem State.enterSections_dirtyPix (s : State) : (s.enterSections).dirtyPix = s.dirtyPix := rfl
@[simp] theorem State.enterSections_dirtyOut (s : State) : (s.enterSections).dirtyOut = s.dirtyOut := rfl


/-! `State.applyReset` -/

@[simp] theorem State.applyReset_ctrl (s : State) : (s.applyReset).ctrl = State.reset.ctrl := rfl
@[simp] theorem State.applyReset_status (s : State) : (s.applyReset).status = State.reset.status := rfl
@[simp] theorem State.applyReset_inLen (s : State) : (s.applyReset).inLen = State.reset.inLen := rfl
@[simp] theorem State.applyReset_palCount (s : State) : (s.applyReset).palCount = State.reset.palCount := rfl
@[simp] theorem State.applyReset_outLen (s : State) : (s.applyReset).outLen = State.reset.outLen := rfl
@[simp] theorem State.applyReset_byteCursor (s : State) : (s.applyReset).byteCursor = State.reset.byteCursor := rfl
@[simp] theorem State.applyReset_pixCount (s : State) : (s.applyReset).pixCount = State.reset.pixCount := rfl
@[simp] theorem State.applyReset_flipCursor (s : State) : (s.applyReset).flipCursor = State.reset.flipCursor := rfl
@[simp] theorem State.applyReset_flipLen (s : State) : (s.applyReset).flipLen = State.reset.flipLen := rfl
@[simp] theorem State.applyReset_cmd (s : State) : (s.applyReset).cmd = State.reset.cmd := rfl
@[simp] theorem State.applyReset_mode (s : State) : (s.applyReset).mode = State.reset.mode := rfl
@[simp] theorem State.applyReset_strict (s : State) : (s.applyReset).strict = State.reset.strict := rfl
@[simp] theorem State.applyReset_pos (s : State) : (s.applyReset).pos = State.reset.pos := rfl
@[simp] theorem State.applyReset_len (s : State) : (s.applyReset).len = State.reset.len := rfl
@[simp] theorem State.applyReset_count (s : State) : (s.applyReset).count = State.reset.count := rfl
@[simp] theorem State.applyReset_fcur (s : State) : (s.applyReset).fcur = State.reset.fcur := rfl
@[simp] theorem State.applyReset_ct (s : State) : (s.applyReset).ct = State.reset.ct := rfl
@[simp] theorem State.applyReset_dl (s : State) : (s.applyReset).dl = State.reset.dl := rfl
@[simp] theorem State.applyReset_dr (s : State) : (s.applyReset).dr = State.reset.dr := rfl
@[simp] theorem State.applyReset_flipL (s : State) : (s.applyReset).flipL = State.reset.flipL := rfl
@[simp] theorem State.applyReset_nfb (s : State) : (s.applyReset).nfb = State.reset.nfb := rfl
@[simp] theorem State.applyReset_phase (s : State) : (s.applyReset).phase = State.reset.phase := rfl
@[simp] theorem State.applyReset_plan (s : State) : (s.applyReset).plan = State.reset.plan := rfl
@[simp] theorem State.applyReset_inMem (s : State) : (s.applyReset).inMem = State.reset.inMem := rfl
@[simp] theorem State.applyReset_outMem (s : State) : (s.applyReset).outMem = State.reset.outMem := rfl
@[simp] theorem State.applyReset_palMem (s : State) : (s.applyReset).palMem = State.reset.palMem := rfl
@[simp] theorem State.applyReset_idxMem (s : State) : (s.applyReset).idxMem = State.reset.idxMem := rfl
@[simp] theorem State.applyReset_pixMem (s : State) : (s.applyReset).pixMem = State.reset.pixMem := rfl
@[simp] theorem State.applyReset_params (s : State) : (s.applyReset).params = s.params := rfl
@[simp] theorem State.applyReset_hostQ (s : State) : (s.applyReset).hostQ = s.hostQ := rfl
@[simp] theorem State.applyReset_replies (s : State) : (s.applyReset).replies = s.replies := rfl
@[simp] theorem State.applyReset_draws (s : State) : (s.applyReset).draws = s.draws := rfl
@[simp] theorem State.applyReset_tainted (s : State) : (s.applyReset).tainted = State.reset.tainted := rfl
@[simp] theorem State.applyReset_dirtyPix (s : State) : (s.applyReset).dirtyPix = State.reset.dirtyPix := rfl
@[simp] theorem State.applyReset_dirtyOut (s : State) : (s.applyReset).dirtyOut = State.reset.dirtyOut := rfl


/-! `State.complete` keeps what it does not report. -/

@[simp] theorem State.complete_ctrl (s : State) (r : Result) : (s.complete r).ctrl = s.ctrl := by
  unfold State.complete; split <;> rfl

@[simp] theorem State.complete_inLen (s : State) (r : Result) : (s.complete r).inLen = s.inLen := by
  unfold State.complete; split <;> rfl

@[simp] theorem State.complete_palCount (s : State) (r : Result) : (s.complete r).palCount = s.palCount := by
  unfold State.complete; split <;> rfl

@[simp] theorem State.complete_cmd (s : State) (r : Result) : (s.complete r).cmd = s.cmd := by
  unfold State.complete; split <;> rfl

@[simp] theorem State.complete_mode (s : State) (r : Result) : (s.complete r).mode = s.mode := by
  unfold State.complete; split <;> rfl

@[simp] theorem State.complete_strict (s : State) (r : Result) : (s.complete r).strict = s.strict := by
  unfold State.complete; split <;> rfl

@[simp] theorem State.complete_pos (s : State) (r : Result) : (s.complete r).pos = s.pos := by
  unfold State.complete; split <;> rfl

@[simp] theorem State.complete_len (s : State) (r : Result) : (s.complete r).len = s.len := by
  unfold State.complete; split <;> rfl

@[simp] theorem State.complete_count (s : State) (r : Result) : (s.complete r).count = s.count := by
  unfold State.complete; split <;> rfl

@[simp] theorem State.complete_fcur (s : State) (r : Result) : (s.complete r).fcur = s.fcur := by
  unfold State.complete; split <;> rfl

@[simp] theorem State.complete_ct (s : State) (r : Result) : (s.complete r).ct = s.ct := by
  unfold State.complete; split <;> rfl

@[simp] theorem State.complete_dl (s : State) (r : Result) : (s.complete r).dl = s.dl := by
  unfold State.complete; split <;> rfl

@[simp] theorem State.complete_dr (s : State) (r : Result) : (s.complete r).dr = s.dr := by
  unfold State.complete; split <;> rfl

@[simp] theorem State.complete_flipL (s : State) (r : Result) : (s.complete r).flipL = s.flipL := by
  unfold State.complete; split <;> rfl

@[simp] theorem State.complete_nfb (s : State) (r : Result) : (s.complete r).nfb = s.nfb := by
  unfold State.complete; split <;> rfl

@[simp] theorem State.complete_plan (s : State) (r : Result) : (s.complete r).plan = s.plan := by
  unfold State.complete; split <;> rfl

@[simp] theorem State.complete_inMem (s : State) (r : Result) : (s.complete r).inMem = s.inMem := by
  unfold State.complete; split <;> rfl

@[simp] theorem State.complete_palMem (s : State) (r : Result) : (s.complete r).palMem = s.palMem := by
  unfold State.complete; split <;> rfl

@[simp] theorem State.complete_idxMem (s : State) (r : Result) : (s.complete r).idxMem = s.idxMem := by
  unfold State.complete; split <;> rfl

@[simp] theorem State.complete_params (s : State) (r : Result) : (s.complete r).params = s.params := by
  unfold State.complete; split <;> rfl

@[simp] theorem State.complete_hostQ (s : State) (r : Result) : (s.complete r).hostQ = s.hostQ := by
  unfold State.complete; split <;> rfl

@[simp] theorem State.complete_replies (s : State) (r : Result) : (s.complete r).replies = s.replies := by
  unfold State.complete; split <;> rfl

@[simp] theorem State.complete_phase (s : State) (r : Result) : (s.complete r).phase = Phase.idle := by
  unfold State.complete; split <;> rfl

@[simp] theorem State.complete_tainted (s : State) (r : Result) : (s.complete r).tainted = false := by
  unfold State.complete; split <;> rfl

@[simp] theorem State.complete_dirtyPix (s : State) (r : Result) : (s.complete r).dirtyPix = [] := by
  unfold State.complete; split <;> rfl

@[simp] theorem State.complete_dirtyOut (s : State) (r : Result) : (s.complete r).dirtyOut = [] := by
  unfold State.complete; split <;> rfl


/-! `State.raise` moves `pos` and completes. -/

@[simp] theorem State.raise_ctrl (s : State) (e : Code) (c : Sec) (k : Nat) : (s.raise e c k).ctrl = s.ctrl := by
  unfold State.raise; split <;> simp

@[simp] theorem State.raise_inLen (s : State) (e : Code) (c : Sec) (k : Nat) : (s.raise e c k).inLen = s.inLen := by
  unfold State.raise; split <;> simp

@[simp] theorem State.raise_palCount (s : State) (e : Code) (c : Sec) (k : Nat) : (s.raise e c k).palCount = s.palCount := by
  unfold State.raise; split <;> simp

@[simp] theorem State.raise_cmd (s : State) (e : Code) (c : Sec) (k : Nat) : (s.raise e c k).cmd = s.cmd := by
  unfold State.raise; split <;> simp

@[simp] theorem State.raise_mode (s : State) (e : Code) (c : Sec) (k : Nat) : (s.raise e c k).mode = s.mode := by
  unfold State.raise; split <;> simp

@[simp] theorem State.raise_strict (s : State) (e : Code) (c : Sec) (k : Nat) : (s.raise e c k).strict = s.strict := by
  unfold State.raise; split <;> simp

@[simp] theorem State.raise_pos (s : State) (e : Code) (c : Sec) (k : Nat) : (s.raise e c k).pos = k := by
  unfold State.raise; split <;> simp

@[simp] theorem State.raise_len (s : State) (e : Code) (c : Sec) (k : Nat) : (s.raise e c k).len = s.len := by
  unfold State.raise; split <;> simp

@[simp] theorem State.raise_count (s : State) (e : Code) (c : Sec) (k : Nat) : (s.raise e c k).count = s.count := by
  unfold State.raise; split <;> simp

@[simp] theorem State.raise_fcur (s : State) (e : Code) (c : Sec) (k : Nat) : (s.raise e c k).fcur = s.fcur := by
  unfold State.raise; split <;> simp

@[simp] theorem State.raise_ct (s : State) (e : Code) (c : Sec) (k : Nat) : (s.raise e c k).ct = s.ct := by
  unfold State.raise; split <;> simp

@[simp] theorem State.raise_dl (s : State) (e : Code) (c : Sec) (k : Nat) : (s.raise e c k).dl = s.dl := by
  unfold State.raise; split <;> simp

@[simp] theorem State.raise_dr (s : State) (e : Code) (c : Sec) (k : Nat) : (s.raise e c k).dr = s.dr := by
  unfold State.raise; split <;> simp

@[simp] theorem State.raise_flipL (s : State) (e : Code) (c : Sec) (k : Nat) : (s.raise e c k).flipL = s.flipL := by
  unfold State.raise; split <;> simp

@[simp] theorem State.raise_nfb (s : State) (e : Code) (c : Sec) (k : Nat) : (s.raise e c k).nfb = s.nfb := by
  unfold State.raise; split <;> simp

@[simp] theorem State.raise_plan (s : State) (e : Code) (c : Sec) (k : Nat) : (s.raise e c k).plan = s.plan := by
  unfold State.raise; split <;> simp

@[simp] theorem State.raise_inMem (s : State) (e : Code) (c : Sec) (k : Nat) : (s.raise e c k).inMem = s.inMem := by
  unfold State.raise; split <;> simp

@[simp] theorem State.raise_palMem (s : State) (e : Code) (c : Sec) (k : Nat) : (s.raise e c k).palMem = s.palMem := by
  unfold State.raise; split <;> simp

@[simp] theorem State.raise_idxMem (s : State) (e : Code) (c : Sec) (k : Nat) : (s.raise e c k).idxMem = s.idxMem := by
  unfold State.raise; split <;> simp

@[simp] theorem State.raise_params (s : State) (e : Code) (c : Sec) (k : Nat) : (s.raise e c k).params = s.params := by
  unfold State.raise; split <;> simp

@[simp] theorem State.raise_hostQ (s : State) (e : Code) (c : Sec) (k : Nat) : (s.raise e c k).hostQ = s.hostQ := by
  unfold State.raise; split <;> simp

@[simp] theorem State.raise_replies (s : State) (e : Code) (c : Sec) (k : Nat) : (s.raise e c k).replies = s.replies := by
  unfold State.raise; split <;> simp

@[simp] theorem State.raise_phase (s : State) (e : Code) (c : Sec) (k : Nat) : (s.raise e c k).phase = Phase.idle := by
  unfold State.raise; simp

@[simp] theorem State.raise_tainted (s : State) (e : Code) (c : Sec) (k : Nat) : (s.raise e c k).tainted = false := by
  unfold State.raise; simp

@[simp] theorem State.raise_dirtyPix (s : State) (e : Code) (c : Sec) (k : Nat) : (s.raise e c k).dirtyPix = [] := by
  unfold State.raise; simp

@[simp] theorem State.raise_dirtyOut (s : State) (e : Code) (c : Sec) (k : Nat) : (s.raise e c k).dirtyOut = [] := by
  unfold State.raise; simp

end Sys2Proof.Machine
end

