-- ==== Sys2Proof/Laws/Ops.lean ====
section
/-!
SUPPORT. What the shared operations can do, said once: pixel emission, completion, taking an abort, START, the token
operations.
-/

namespace Sys2Proof.Machine

open Sys2Proof

/-! The fields of a STATUS word. -/

theorem statusWord_busy (b d e a t : Bool) (c : BitVec 4) (x : BitVec 3) :
    (statusWord b d e a t c x).getLsbD 0 = b := by
  simp only [statusWord, BitVec.getLsbD_append]; simp

theorem statusWord_done (b d e a t : Bool) (c : BitVec 4) (x : BitVec 3) :
    (statusWord b d e a t c x).getLsbD 1 = d := by
  simp only [statusWord, BitVec.getLsbD_append]; simp

theorem statusWord_err (b d e a t : Bool) (c : BitVec 4) (x : BitVec 3) :
    (statusWord b d e a t c x).getLsbD 2 = e := by
  simp only [statusWord, BitVec.getLsbD_append]; simp

theorem statusWord_accept (b d e a t : Bool) (c : BitVec 4) (x : BitVec 3) :
    (statusWord b d e a t c x).getLsbD 3 = a := by
  simp only [statusWord, BitVec.getLsbD_append]; simp

theorem statusWord_trailing (b d e a t : Bool) (c : BitVec 4) (x : BitVec 3) :
    (statusWord b d e a t c x).getLsbD 4 = t := by
  simp only [statusWord, BitVec.getLsbD_append]; simp

theorem statusWord_code (b d e a t : Bool) (c : BitVec 4) (x : BitVec 3) :
    (statusWord b d e a t c x).extractLsb' 8 4 = c := by
  ext i hi
  simp only [statusWord, BitVec.getElem_extractLsb', BitVec.getLsbD_append]
  simp [show ¬ (8 + i < 1) by omega, hi]

theorem statusWord_section (b d e a t : Bool) (c : BitVec 4) (x : BitVec 3) :
    (statusWord b d e a t c x).extractLsb' 12 3 = x := by
  ext i hi
  simp only [statusWord, BitVec.getElem_extractLsb', BitVec.getLsbD_append]
  simp [show ¬ (12 + i < 1) by omega, show ¬ (7 + i < 3) by omega, show ¬ (7 + i - 3 < 4) by omega,
    show 7 + i - 3 - 4 = i by omega, hi]

theorem statusWord_reserved (b d e a t : Bool) (c : BitVec 4) (x : BitVec 3) :
    statusWord b d e a t c x &&& statusReserved = 0#32 := by
  revert b d e a t c x
  decide +kernel

/-! Pixel emission. -/

/-- The bytes of PIX that a list of pixels fills. -/
def pixelBytes (ps : List Colour) : List Byte := ps.flatMap fun p => bytesOfHalf (p.setWidth 16)

@[simp] theorem pixelBytes_nil : pixelBytes [] = [] := rfl

@[simp] theorem pixelBytes_cons (p : Colour) (ps : List Colour) :
    pixelBytes (p :: ps) = bytesOfHalf (p.setWidth 16) ++ pixelBytes ps := rfl

@[simp] theorem pixelBytes_length (ps : List Colour) : (pixelBytes ps).length = 2 * ps.length := by
  induction ps with
  | nil => rfl
  | cons p ps ih => simp [bytesOfHalf, ih]; omega

/-- Emission writes the pixels' bytes from entry `count` on, moves `count`, and changes nothing else. -/
theorem State.emitAll_eq (s : State) (ps : List Colour) :
    s.emitAll ps =
      { s with pixMem := s.pixMem.writeBytes (2 * s.count) (pixelBytes ps), count := s.count + ps.length } := by
  induction ps generalizing s with
  | nil => rfl
  | cons p ps ih =>
    rw [State.emitAll, ih (s.emit p)]
    simp only [State.emit, pixelBytes_cons, Memory.writeBytes_append, List.length_cons, Memory.writeHalf]
    congr 1
    omega

/-- The pixels emitted stand in PIX in order. -/
theorem State.emitAll_pixel (s : State) (ps : List Colour) {i : Nat} (h : i < ps.length) :
    (s.emitAll ps).pixel (s.count + i) = (ps[i]).setWidth 16 := by
  induction ps generalizing s i with
  | nil => simp at h
  | cons p ps ih =>
    cases i with
    | zero =>
      rw [State.emitAll, State.emitAll_eq]
      simp only [State.pixel, State.emit, Memory.readHalf, Nat.add_zero, List.getElem_cons_zero]
      rw [Memory.read_writeBytes_outside _ _ _ (by omega), Memory.read_writeBytes_outside _ _ _ (by omega)]
      exact Memory.readHalf_writeHalf _ _ _
    | succ i =>
      have := ih (s.emit p) (i := i) (by simpa using h)
      simp only [State.emit_count] at this
      rw [State.emitAll, show s.count + (i + 1) = s.count + 1 + i by omega, this]
      simp

/-- Emission leaves every other byte of PIX alone. -/
theorem State.emitAll_frame (s : State) (ps : List Colour) {a : Nat}
    (h : a < 2 * s.count ∨ 2 * (s.count + ps.length) ≤ a) : (s.emitAll ps).pixMem.read a = s.pixMem.read a := by
  rw [State.emitAll_eq]
  exact Memory.read_writeBytes_outside _ _ _ (by simp; omega)

/-! Completion. -/

/-- Completion of a command whose inputs no host write has touched. -/
theorem State.complete_untainted (s : State) (r : Result) (h : s.tainted = false) :
    s.complete r = { (s.reportResult r).settleDirty with phase := .idle, tainted := false } := by
  simp [State.complete, h]

/-- Completion with no hazard pending: the report, and nothing else but the phase and the index of free values. -/
theorem State.complete_undisturbed (s : State) (r : Result) (h : s.undisturbed) :
    s.complete r =
      { s with
        status := r.status
        outLen := BitVec.ofNat 32 r.outLen
        byteCursor := BitVec.ofNat 32 s.pos
        pixCount := BitVec.ofNat 32 s.count
        flipCursor := BitVec.ofNat 32 s.fcur
        flipLen := s.flipL.setWidth 32
        phase := .idle
        draws := s.draws + pixBytes + s.params.outCap } := by
  obtain ⟨ht, hp, ho⟩ := h
  rw [State.complete_untainted s r ht]
  cases s
  simp_all [State.reportResult, State.settleDirty]

theorem State.complete_status (s : State) (r : Result) (h : s.tainted = false) : (s.complete r).status = r.status := by
  simp [State.complete_untainted s r h]

theorem State.complete_outLen (s : State) (r : Result) (h : s.tainted = false) :
    (s.complete r).outLen = BitVec.ofNat 32 r.outLen := by simp [State.complete_untainted s r h]

theorem State.complete_byteCursor (s : State) (r : Result) (h : s.tainted = false) :
    (s.complete r).byteCursor = BitVec.ofNat 32 s.pos := by simp [State.complete_untainted s r h]

theorem State.complete_pixCount (s : State) (r : Result) (h : s.tainted = false) :
    (s.complete r).pixCount = BitVec.ofNat 32 s.count := by simp [State.complete_untainted s r h]

theorem State.complete_flipCursor (s : State) (r : Result) (h : s.tainted = false) :
    (s.complete r).flipCursor = BitVec.ofNat 32 s.fcur := by simp [State.complete_untainted s r h]

theorem State.complete_flipLen (s : State) (r : Result) (h : s.tainted = false) :
    (s.complete r).flipLen = s.flipL.setWidth 32 := by simp [State.complete_untainted s r h]

/-- A completion lowers BUSY, whatever the host has done meanwhile. -/
@[simp] theorem State.complete_busy (s : State) (r : Result) : (s.complete r).busy = false := by
  unfold State.complete
  split <;> exact statusWord_busy ..

/-- A completion raises DONE, whatever the host has done meanwhile. -/
@[simp] theorem State.complete_done (s : State) (r : Result) : (s.complete r).done = true := by
  unfold State.complete
  split <;> exact statusWord_done ..

theorem State.complete_status_reserved (s : State) (r : Result) : (s.complete r).status &&& statusReserved = 0#32 := by
  unfold State.complete
  split <;> exact statusWord_reserved ..

theorem State.complete_flipLen_lt (s : State) (r : Result) : (s.complete r).flipLen.toNat < 65536 := by
  unfold State.complete
  split <;> simp <;> omega

/-! Taking an abort. -/

/-- An abort with no hazard pending, outside DECODE. -/
theorem State.raise_other (s : State) (e : Code) (c : Sec) (k : Nat) (h : s.cmd ≠ cmdDecode) :
    s.raise e c k = (s.moveTo k).complete (abortResult s.sniffing e c) := by
  simp [State.raise, h]

/-- An abort of a DECODE. -/
theorem State.raise_decode (s : State) (e : Code) (c : Sec) (k : Nat) (h : s.cmd = cmdDecode) :
    s.raise e c k = (s.moveTo k).loosePixels.complete (abortResult s.sniffing e c) := by
  simp [State.raise, h]

theorem State.raise_status (s : State) (e : Code) (c : Sec) (k : Nat) (h : s.tainted = false) :
    (s.raise e c k).status = (abortResult s.sniffing e c).status := by
  unfold State.raise; split <;> rw [State.complete_status] <;> simpa

theorem State.raise_outLen (s : State) (e : Code) (c : Sec) (k : Nat) (h : s.tainted = false) :
    (s.raise e c k).outLen = 0#32 := by
  unfold State.raise; split <;> rw [State.complete_outLen] <;> simp [abortResult, h]

theorem State.raise_byteCursor (s : State) (e : Code) (c : Sec) (k : Nat) (h : s.tainted = false) :
    (s.raise e c k).byteCursor = BitVec.ofNat 32 k := by
  unfold State.raise; split <;> rw [State.complete_byteCursor] <;> simp [h]

theorem State.raise_pixCount (s : State) (e : Code) (c : Sec) (k : Nat) (h : s.tainted = false) :
    (s.raise e c k).pixCount = BitVec.ofNat 32 s.count := by
  unfold State.raise; split <;> rw [State.complete_pixCount] <;> simp [h]

theorem State.raise_flipCursor (s : State) (e : Code) (c : Sec) (k : Nat) (h : s.tainted = false) :
    (s.raise e c k).flipCursor = BitVec.ofNat 32 s.fcur := by
  unfold State.raise; split <;> rw [State.complete_flipCursor] <;> simp [h]

theorem State.raise_flipLen (s : State) (e : Code) (c : Sec) (k : Nat) (h : s.tainted = false) :
    (s.raise e c k).flipLen = s.flipL.setWidth 32 := by
  unfold State.raise; split <;> rw [State.complete_flipLen] <;> simp [h]

@[simp] theorem State.raise_busy (s : State) (e : Code) (c : Sec) (k : Nat) : (s.raise e c k).busy = false := by
  simp [State.raise]

@[simp] theorem State.raise_done (s : State) (e : Code) (c : Sec) (k : Nat) : (s.raise e c k).done = true := by
  simp [State.raise]

/-- With no hazard pending an abort leaves OUT alone. -/
theorem State.raise_outMem (s : State) (e : Code) (c : Sec) (k : Nat) (h : s.undisturbed) :
    (s.raise e c k).outMem = s.outMem := by
  obtain ⟨ht, hp, ho⟩ := h
  unfold State.raise
  split <;> rw [State.complete_untainted _ _ (by simpa using ht)] <;> simp [ho]

/-- With no hazard pending an abort outside DECODE leaves PIX alone. -/
theorem State.raise_pixMem (s : State) (e : Code) (c : Sec) (k : Nat) (h : s.undisturbed) (hc : s.cmd ≠ cmdDecode) :
    (s.raise e c k).pixMem = s.pixMem := by
  obtain ⟨ht, hp, ho⟩ := h
  rw [State.raise_other s e c k hc, State.complete_untainted _ _ (by simpa using ht)]
  simp [hp]

/-- With no hazard pending an abort leaves the pixels already emitted alone. -/
theorem State.raise_pixMem_below (s : State) (e : Code) (c : Sec) (k : Nat) (h : s.undisturbed) {a : Nat}
    (ha : a < 2 * s.count) : (s.raise e c k).pixMem.read a = s.pixMem.read a := by
  by_cases hc : s.cmd = cmdDecode
  · obtain ⟨ht, hp, ho⟩ := h
    rw [State.raise_decode s e c k hc, State.complete_untainted _ _ (by simpa using ht)]
    simp only [State.settleDirty_pixMem, State.reportResult_pixMem, State.reportResult_dirtyPix,
      State.loosePixels_dirtyPix, State.moveTo_dirtyPix, hp, Memory.fill_nil, State.loosePixels_pixMem,
      State.moveTo_pixMem, State.moveTo_count]
    exact Memory.read_fill_other _ _ _ (by simp [List.mem_range'_1]; omega)
  · rw [State.raise_pixMem s e c k h hc]

/-- After an aborted DECODE with no hazard pending, each byte of PIX from entry `count` on is a free value. -/
theorem State.raise_pixMem_free (s : State) (e : Code) (c : Sec) (k : Nat) (h : s.undisturbed)
    (hc : s.cmd = cmdDecode) {a : Nat} (ha : 2 * s.count ≤ a) (hb : a < pixBytes) :
    (s.raise e c k).pixMem.read a = Config.freeByte (s.draws + a) := by
  obtain ⟨ht, hp, ho⟩ := h
  rw [State.raise_decode s e c k hc, State.complete_untainted _ _ (by simpa using ht)]
  simp only [State.settleDirty_pixMem, State.reportResult_pixMem, State.reportResult_dirtyPix,
    State.loosePixels_dirtyPix, State.moveTo_dirtyPix, hp, Memory.fill_nil, State.loosePixels_pixMem,
    State.moveTo_pixMem, State.moveTo_count, State.moveTo_draws]
  exact Memory.read_fill_listed _ _ _ (by simp [List.mem_range'_1]; omega)

/-! The token operations. -/

/-- A token that fits writes its pixels, moves `count` and `pos`, and changes nothing else. -/
theorem State.paint_eq (size : Nat) (ps : List Colour) (s : State) :
    s.paint size ps =
      { s with
        pixMem := s.pixMem.writeBytes (2 * s.count) (pixelBytes ps)
        count := s.count + ps.length
        pos := s.pos + size } := by
  rw [State.paint, State.emitAll_eq]

theorem State.paintInRow_fits (size : Nat) (ps : List Colour) (s : State) (h : s.column + ps.length ≤ 100) :
    s.paintInRow size ps = s.paint size ps := by
  rw [State.paintInRow, if_neg (by omega)]

theorem State.paintInRow_overflows (size : Nat) (ps : List Colour) (s : State) (h : 100 < s.column + ps.length) :
    s.paintInRow size ps = s.raise .rowOverflow .pixels s.pos := if_pos h

/-- What `paintInRow` can do. -/
theorem State.paintInRow_cases (size : Nat) (ps : List Colour) (s : State) :
    (s.column + ps.length ≤ 100 ∧ s.paintInRow size ps = s.paint size ps) ∨
      (100 < s.column + ps.length ∧ s.paintInRow size ps = s.raise .rowOverflow .pixels s.pos) := by
  rcases Nat.lt_or_ge 100 (s.column + ps.length) with h | h
  · exact .inr ⟨h, State.paintInRow_overflows size ps s h⟩
  · exact .inl ⟨h, State.paintInRow_fits size ps s h⟩

/-- What `paintPair` can do. -/
theorem State.paintPair_cases (j : BitVec 6) (s : State) :
    (s.column + 2 ≤ 100 ∧ s.fcur < 8 * s.nfb ∧
        s.paintPair j = { s.paint 1 (s.pair j (s.flipBit s.fcur)) with fcur := s.fcur + 1 }) ∨
      (100 < s.column + 2 ∧ s.paintPair j = s.raise .rowOverflow .pixels s.pos) ∨
      (s.column + 2 ≤ 100 ∧ 8 * s.nfb ≤ s.fcur ∧ s.paintPair j = s.raise .flipOverrun .pixels s.pos) := by
  unfold State.paintPair
  split
  · exact .inr (.inl ⟨by assumption, rfl⟩)
  · split
    · exact .inr (.inr ⟨by omega, by assumption, rfl⟩)
    · exact .inl ⟨by omega, by omega, rfl⟩

/-- What `countToken` can do. -/
theorem State.countToken_cases (size n d : Nat) (s : State) :
    (s.count + n ≤ 5000 ∧
        s.countToken size n d = { s with pos := s.pos + size, count := s.count + n, fcur := s.fcur + d }) ∨
      (5000 < s.count + n ∧ s.countToken size n d = s.raise .pixelCountMismatch .pixels s.pos) := by
  unfold State.countToken
  split
  · exact .inr ⟨by assumption, rfl⟩
  · exact .inl ⟨by omega, rfl⟩

@[simp] theorem State.pair_length (s : State) (j : BitVec 6) (f : Bool) : (s.pair j f).length = 2 := by
  unfold State.pair; split <;> rfl

/-- A row that still has room has fewer than 5000 pixels behind its end. -/
theorem State.count_fits (s : State) {n : Nat} (hc : s.count < 5000) (hn : s.column + n ≤ 100) : s.count + n ≤ 5000 := by
  unfold State.column at hn; omega

end Sys2Proof.Machine
end

