-- ==== Sys2Proof/Laws/Step.lean ====
section
/-!
SUPPORT. Every step answers a next state: `stepEffect` is that state, with one equation for each layer (a meaning, the
token step, an engine step, a step, a run), so that later proofs speak of states and not of outcomes.
-/

namespace Sys2Proof.Machine

open Sys2Proof

/-- The next state of an instruction. -/
def effect : Instr → State → State
  | .sgl x, s => if s.sniffing then s.countToken 1 1 0 else s.paint 1 [entry s.ct x]
  | .dbl x, s => if s.sniffing then s.countToken 1 2 0 else s.paintInRow 1 [entry s.ct x, entry s.ct x]
  | .dic x, s => if s.sniffing then s.countToken 1 2 1 else s.paintPair x
  | .run x r, s =>
    if s.sniffing then s.countToken 2 (runLength r) 0
    else s.paintInRow 2 (List.replicate (runLength r) (entry s.ct x))
  | .decode m k, s => s.startCommand cmdDecode m k State.checkLength
  | .encode m k, s => s.startCommand cmdEncode m k State.checkRaster
  | .sniff m k, s => s.startCommand cmdSniff m k State.checkLength
  | .badCommand c m k, s => s.startCommand c m k (State.raise .badCommand .input 0)

/-- Every instruction answers a next state. -/
theorem exec_eq (i : Instr) (s : State) : exec i s = .next (effect i s) := by cases i <;> rfl

/-! The fetch of a token. -/

theorem decodeToken_two (v r : Byte) (rest : List Byte) :
    ∃ i k, decodeToken (v :: r :: rest) = .ok i k ∧ i.source = .stream := by
  simp only [decodeToken]
  split
  · exact ⟨_, _, rfl, rfl⟩
  · split
    · exact ⟨_, _, rfl, rfl⟩
    · split <;> exact ⟨_, _, rfl, rfl⟩

/-- What the fetch at a token boundary can give: the stream is exhausted; a RUN lacks its run byte; or a token. -/
theorem State.fetch_cases (s : State) :
    (s.len ≤ s.pos ∧ decode .stream s.tokenBytes = .rejected .exhausted) ∨
    (s.len = s.pos + 1 ∧ decode .stream s.tokenBytes = .rejected .runByteMissing) ∨
    (s.pos < s.len ∧ ∃ i rest, decode .stream s.tokenBytes = .ok i rest ∧ i.source = .stream ∧
      (∀ x r, i = .run x r → s.pos + 2 ≤ s.len)) := by
  unfold State.tokenBytes State.hasByte
  by_cases h : s.pos < s.len
  · by_cases h2 : s.pos + 1 < s.len
    · obtain ⟨i, k, hi, hs⟩ := decodeToken_two (s.inByte s.pos) (s.inByte (s.pos + 1)) []
      refine .inr (.inr ⟨h, i, k, ?_, hs, fun _ _ _ => by omega⟩)
      simpa [decode, h, h2] using hi
    · simp only [decode, h, h2, decide_true, decide_false, if_true, Bool.false_eq_true, if_false, decodeToken]
      split
      · exact .inr (.inr ⟨trivial, _, _, rfl, rfl, fun _ _ e => by simp at e⟩)
      · split
        · exact .inr (.inr ⟨trivial, _, _, rfl, rfl, fun _ _ e => by simp at e⟩)
        · split
          · exact .inr (.inr ⟨trivial, _, _, rfl, rfl, fun _ _ e => by simp at e⟩)
          · exact .inr (.inl ⟨by omega, rfl⟩)
  · exact .inl ⟨by omega, by simp [decode, h, decodeToken]⟩

/-- The next state of the token step. -/
def tokenEffect (s : State) : State :=
  if s.count < 5000 then
    match decode .stream s.tokenBytes with
    | .ok i _ => effect i s
    | .rejected .runByteMissing => s.raise .shortRead .pixels s.pos
    | .rejected _ => s.raise .pixelCountMismatch .pixels s.pos
  else { s with phase := .ending }

theorem State.tokenStep_eq (s : State) : s.tokenStep = .next (tokenEffect s) := by
  unfold State.tokenStep tokenEffect
  split
  · rcases s.fetch_cases with ⟨_, h⟩ | ⟨_, h⟩ | ⟨_, i, r, h, _⟩ <;> simp [h, exec_eq]
  · rfl

/-- What a token step can do. -/
theorem tokenEffect_cases (s : State) :
    (5000 ≤ s.count ∧ tokenEffect s = { s with phase := .ending }) ∨
    (s.count < 5000 ∧ s.len ≤ s.pos ∧ tokenEffect s = s.raise .pixelCountMismatch .pixels s.pos) ∨
    (s.count < 5000 ∧ s.len = s.pos + 1 ∧ tokenEffect s = s.raise .shortRead .pixels s.pos) ∨
    (s.count < 5000 ∧ s.pos < s.len ∧ ∃ i rest, decode .stream s.tokenBytes = .ok i rest ∧ i.source = .stream ∧
      (∀ x r, i = .run x r → s.pos + 2 ≤ s.len) ∧ tokenEffect s = effect i s) := by
  by_cases hc : s.count < 5000
  · rcases s.fetch_cases with ⟨hp, h⟩ | ⟨hp, h⟩ | ⟨hp, i, r, h, hs, hr⟩
    · exact .inr (.inl ⟨hc, hp, by simp [tokenEffect, hc, h]⟩)
    · exact .inr (.inr (.inl ⟨hc, hp, by simp [tokenEffect, hc, h]⟩))
    · exact .inr (.inr (.inr ⟨hc, hp, i, r, h, hs, hr, by simp [tokenEffect, hc, h]⟩))
  · exact .inl ⟨by omega, by simp [tokenEffect, hc]⟩

/-- The next state of an engine step. -/
def engineEffect (s : State) : State :=
  match s.phase with
  | .idle => s
  | .ct => if s.encoding then s.ctWrite else s.ctRead
  | .dict => if s.encoding then s.dictWrite else s.dictRead
  | .flen => if s.encoding then s.flenWrite else s.flenRead
  | .fbits => if s.encoding then s.fbitsWrite else s.fbitsRead
  | .pixels => if s.encoding then s.bodyWrite else tokenEffect s
  | .ending => if s.encoding then s.finishEncode else if s.sniffing then s.finishSniff else s.finishDecode

theorem State.engineStep_eq (s : State) : s.engineStep = .next (engineEffect s) := by
  cases h : s.phase <;> simp only [State.engineStep, engineEffect, h]
  split
  · rfl
  · exact s.tokenStep_eq

/-- The next state of a step. -/
def stepEffect (s : State) : State :=
  match s.hostQ with
  | [] => engineEffect s
  | .wait :: _ => engineEffect s.nextEvent
  | .reset :: _ => s.nextEvent.applyReset
  | .read w a :: _ => s.nextEvent.hostRead w a
  | .write w a v :: _ =>
    match (HostEvent.write w a v).startRequest with
    | some i => effect i s
    | none => s.nextEvent.hostWrite w a v

/-- Every step answers a next state: the machine neither faults nor refuses. -/
theorem step_eq (s : State) : step s = .next (stepEffect s) := by
  rcases h : s.hostQ with _ | ⟨e, rest⟩
  · simp only [step, stepEffect, h, State.engineStep_eq]
  · cases e with
    | wait => simp only [step, stepEffect, h, State.engineStep_eq]
    | reset => simp only [step, stepEffect, h]
    | read w a => simp only [step, stepEffect, h]
    | write w a v =>
      simp only [step, stepEffect, h]
      cases (HostEvent.write w a v).startRequest with
      | none => rfl
      | some i => exact exec_eq i s

theorem stepEffect_silent {s : State} (h : s.hostQ = []) : stepEffect s = engineEffect s := by
  simp [stepEffect, h]

/-- A run of `k` steps answers the state `k` steps lead to. -/
theorem run_eq (k : Nat) (s : State) : Sys2Proof.core.run k s = .next (stepEffect^[k] s) := by
  induction k generalizing s with
  | zero => rfl
  | succ k ih =>
    have h : Sys2Proof.core.step s = .next (stepEffect s) := step_eq s
    simp only [Host.Core.run, h]
    exact ih (stepEffect s)

/-! START. -/

/-- A START while BUSY is ignored; else the START actions and what follows them. -/
theorem State.startCommand_cases (c : BitVec 3) (m k : Bool) (f : State → State) (s : State) :
    (s.busy = true ∧ s.startCommand c m k f = s.nextEvent) ∨
      (s.busy = false ∧ s.startCommand c m k f = f (s.nextEvent.start c m k)) := by
  unfold State.startCommand
  have hb : s.nextEvent.busy = s.busy := rfl
  cases h : s.busy <;> simp [hb, h]

theorem State.startCommand_idle {s : State} (h : s.busy = false) (c : BitVec 3) (m k : Bool) (f : State → State) :
    s.startCommand c m k f = f (s.nextEvent.start c m k) := by
  rcases s.startCommand_cases c m k f with ⟨hb, _⟩ | ⟨_, he⟩
  · rw [h] at hb; exact absurd hb (by decide)
  · exact he

theorem State.startCommand_busy {s : State} (h : s.busy = true) (c : BitVec 3) (m k : Bool) (f : State → State) :
    s.startCommand c m k f = s.nextEvent := by
  rcases s.startCommand_cases c m k f with ⟨_, he⟩ | ⟨hb, _⟩
  · exact he
  · rw [h] at hb; exact absurd hb (by decide)

/-- What `firstFrom` answers: the first number with the property, or none has it. -/
theorem firstFrom_some {p : Nat → Bool} {n k j : Nat} (h : firstFrom p n k = some j) :
    k ≤ j ∧ j < k + n ∧ p j = true ∧ ∀ l, k ≤ l → l < j → p l = false := by
  induction n generalizing k with
  | zero => simp [firstFrom] at h
  | succ n ih =>
    rw [firstFrom] at h
    split at h
    · next hp =>
      obtain rfl : k = j := by simpa using h
      exact ⟨le_refl _, by omega, hp, fun l h1 h2 => by omega⟩
    · next hp =>
      obtain ⟨h1, h2, h3, h4⟩ := ih h
      refine ⟨by omega, by omega, h3, fun l hl1 hl2 => ?_⟩
      rcases Nat.eq_or_lt_of_le hl1 with rfl | hl
      · simpa using hp
      · exact h4 l hl hl2

theorem firstFrom_none {p : Nat → Bool} {n k : Nat} :
    firstFrom p n k = none ↔ ∀ l, k ≤ l → l < k + n → p l = false := by
  induction n generalizing k with
  | zero => simp [firstFrom]; omega
  | succ n ih =>
    rw [firstFrom]
    split
    · next hp =>
      refine iff_of_false (by simp) fun hc => ?_
      have := hc k (le_refl _) (by omega)
      rw [hp] at this; exact absurd this (by decide)
    · next hp =>
      rw [ih]
      refine ⟨fun hr l h1 h2 => ?_, fun hr l h1 h2 => hr l (by omega) (by omega)⟩
      rcases Nat.eq_or_lt_of_le h1 with rfl | hl
      · simpa using hp
      · exact hr l hl (by omega)

end Sys2Proof.Machine
end

