-- ==== Sys2Proof/Laws/Host.lean ====
section
/-!
SUPPORT. What a host access can do: one lemma for each operation of Machine/HostPort.lean.
-/

namespace Sys2Proof.Machine

open Sys2Proof

/-! The host map's numbers (R66). -/

@[simp] theorem Window.base_pal : Window.base .pal = 0x1000 := rfl

@[simp] theorem Window.size_pal (p : Params) : Window.size p .pal = 128 := rfl

@[simp] theorem Window.base_idx : Window.base .idx = 0x2000 := rfl

@[simp] theorem Window.size_idx (p : Params) : Window.size p .idx = 5000 := rfl

@[simp] theorem Window.base_pix : Window.base .pix = 0x4000 := rfl

@[simp] theorem Window.size_pix (p : Params) : Window.size p .pix = 10000 := rfl

@[simp] theorem Window.base_out : Window.base .out = 0x8000 := rfl

@[simp] theorem Window.size_out (p : Params) : Window.size p .out = p.outCap := rfl

@[simp] theorem Window.base_inp : Window.base .inp = 0x10000 := rfl

@[simp] theorem Window.size_inp (p : Params) : Window.size p .inp = p.inCap := rfl

/-- When a host address lies in a window. -/
theorem Window.holds_iff (p : Params) (a : Nat) (w : Window) :
    Window.holds p a w = true ↔ w.base ≤ a ∧ a < w.base + w.size p := by simp [Window.holds]

/-- The window found holds the address, at the offset answered. -/
theorem memoryAt_some {p : Params} {a o : Nat} {w : Window} (h : memoryAt p a = some (w, o)) :
    a = w.base + o ∧ o < w.size p := by
  simp only [memoryAt, Option.map_eq_some_iff, Prod.mk.injEq] at h
  obtain ⟨x, hx, rfl, rfl⟩ := h
  have := List.find?_some hx
  simp only [Window.holds, Bool.and_eq_true, decide_eq_true_eq] at this
  omega

/-- The first byte of an access lies where the map has it. -/
@[simp] theorem accessAt_first (p : Params) (a : Nat) : accessAt p a a = memoryAt p a := by
  unfold accessAt
  cases memoryAt p a with
  | none => rfl
  | some c => simp [Option.filter]

/-- The window found holds the address, and an access that starts in a window reaches no other. -/
theorem accessAt_some {p : Params} {first a o : Nat} {w : Window} (h : accessAt p first a = some (w, o)) :
    memoryAt p a = some (w, o) ∧ ∀ x k, memoryAt p first = some (x, k) → w = x := by
  unfold accessAt at h
  split at h
  · next hn => exact ⟨h, fun x k hx => by rw [hn] at hx; exact absurd hx (by simp)⟩
  · next y k hy =>
    rw [Option.filter_eq_some_iff] at h
    refine ⟨h.1, fun x l hx => ?_⟩
    rw [hy] at hx
    simp only [Option.some.injEq, Prod.mk.injEq] at hx
    simpa [hx.1] using h.2

/-! Reads. -/

/-- While idle a byte read answers the byte, 0 where unmapped, and changes nothing. -/
theorem State.readByte_idle {s : State} (h : s.busy = false) (first a : Nat) :
    s.readByte first a =
      ((match accessAt s.params first a with
        | some (w, o) => (s.memoryOf w).read o
        | none => 0x00#8), s) := by
  unfold State.readByte
  cases accessAt s.params first a with
  | none => rfl
  | some c => simp [h]

/-- A byte read changes the index of free values only. -/
theorem State.readByte_state (s : State) (first a : Nat) :
    ∃ n, s.draws ≤ n ∧ (s.readByte first a).2 = { s with draws := n } := by
  unfold State.readByte
  split
  · exact ⟨s.draws, le_refl _, rfl⟩
  · split
    · exact ⟨s.draws + 1, by omega, rfl⟩
    · exact ⟨s.draws, le_refl _, rfl⟩

theorem State.readBytes_state (s : State) (first a n : Nat) :
    ∃ k, s.draws ≤ k ∧ (s.readBytes first a n).2 = { s with draws := k } := by
  induction n generalizing s a with
  | zero => exact ⟨s.draws, le_refl _, rfl⟩
  | succ n ih =>
    obtain ⟨k, hk, hs⟩ := s.readByte_state first a
    obtain ⟨l, hl, ht⟩ := ih (s.readByte first a).2 (a + 1)
    refine ⟨l, ?_, ?_⟩
    · rw [hs] at hl; exact le_trans hk hl
    · show ((s.readByte first a).2.readBytes first (a + 1) n).2 = _
      rw [ht, hs]

theorem State.readBytes_idle_state {s : State} (h : s.busy = false) (first a n : Nat) : (s.readBytes first a n).2 = s := by
  induction n generalizing a with
  | zero => rfl
  | succ n ih =>
    show ((s.readByte first a).2.readBytes first (a + 1) n).2 = s
    rw [State.readByte_idle h]; exact ih _

theorem State.resultRegister_idle {s : State} (h : s.busy = false) (v : Word) (n : Nat) :
    s.resultRegister v n = (v, s) := by simp [State.resultRegister, h]

theorem State.resultRegister_state (s : State) (v : Word) (n : Nat) :
    ∃ k, s.draws ≤ k ∧ (s.resultRegister v n).2 = { s with draws := k } := by
  unfold State.resultRegister
  split
  · exact ⟨s.draws + 1, by omega, rfl⟩
  · exact ⟨s.draws, le_refl _, rfl⟩

theorem State.readRegister_state (s : State) (k : Nat) :
    ∃ n, s.draws ≤ n ∧ (s.readRegister k).2 = { s with draws := n } := by
  unfold State.readRegister
  split <;> first
    | exact ⟨s.draws, le_refl _, rfl⟩
    | exact s.resultRegister_state _ _

/-- What a host read can do: it puts one reply and may draw free values; nothing else changes. -/
theorem State.hostRead_eq (w : Width) (a : Word) (s : State) :
    ∃ v n, s.draws ≤ n ∧ s.hostRead w a = { s with replies := v :: s.replies, draws := n } := by
  have key : ∃ n, s.draws ≤ n ∧ (s.readPort w a).2 = { s with draws := n } := by
    unfold State.readPort
    split
    · split
      · exact s.readRegister_state _
      · exact ⟨s.draws, le_refl _, rfl⟩
    · exact s.readBytes_state _ _ _
  obtain ⟨n, hn, hs⟩ := key
  exact ⟨(s.readPort w a).1, n, hn, by simp only [State.hostRead, hs]⟩

/-! Writes. -/

theorem State.putByte_same (s : State) (w : Window) (o : Nat) (b : Byte) :
    (s.putByte w o b).memoryOf w = (s.memoryOf w).write o b := by cases w <;> rfl

theorem State.putByte_other (s : State) {w x : Window} (h : x ≠ w) (o : Nat) (b : Byte) :
    (s.putByte w o b).memoryOf x = s.memoryOf x := by
  cases w <;> cases x <;> first | rfl | exact absurd rfl h

/-- A byte write touches the five memories only. -/
theorem State.putByte_eq (s : State) (w : Window) (o : Nat) (b : Byte) :
    s.putByte w o b =
      { s with
        inMem := (s.putByte w o b).inMem, outMem := (s.putByte w o b).outMem, palMem := (s.putByte w o b).palMem
        idxMem := (s.putByte w o b).idxMem, pixMem := (s.putByte w o b).pixMem } := by cases w <;> rfl

/-- What a host byte write can do. -/
theorem State.writeByte_cases (s : State) (first a : Nat) (b : Byte) :
    (accessAt s.params first a = none ∧ s.writeByte first a b = s) ∨
    ∃ w o, accessAt s.params first a = some (w, o) ∧
      ((s.busy = false ∧ s.writeByte first a b = s.putByte w o b) ∨
       (s.busy = true ∧ w = .pix ∧ s.writeByte first a b = { s with dirtyPix := o :: s.dirtyPix }) ∨
       (s.busy = true ∧ w = .out ∧ s.writeByte first a b = { s with dirtyOut := o :: s.dirtyOut }) ∨
       (s.busy = true ∧ w.isResult = false ∧ s.writeByte first a b = { s.putByte w o b with tainted := true })) := by
  cases h : accessAt s.params first a with
  | none => exact .inl ⟨rfl, by simp [State.writeByte, h]⟩
  | some c =>
    obtain ⟨w, o⟩ := c
    refine .inr ⟨w, o, rfl, ?_⟩
    cases hb : s.busy with
    | false => exact .inl ⟨rfl, by simp [State.writeByte, h, hb]⟩
    | true => cases w <;> simp [State.writeByte, h, hb, Window.isResult]

/-- What a register write other than START can do. -/
theorem State.writeRegister_cases (s : State) (k : Nat) (v : Word) :
    s.writeRegister k v = s ∨
    (s.busy = false ∧ k = 0x00 ∧
      s.writeRegister k v = { s with ctrl := ctrlWord (ctrlCmd v) (ctrlMode v) (ctrlStrict v) }) ∨
    (s.busy = false ∧ k = 0x08 ∧ s.writeRegister k v = { s with inLen := v }) ∨
    (s.busy = false ∧ k = 0x0C ∧ s.writeRegister k v = { s with palCount := (v.setWidth 7).setWidth 32 }) := by
  cases hb : s.busy with
  | true => exact .inl (by simp [State.writeRegister, hb])
  | false =>
    unfold State.writeRegister
    rw [hb]
    simp only [Bool.false_eq_true, if_false]
    split
    · exact .inr (.inl ⟨trivial, rfl, rfl⟩)
    · exact .inr (.inr (.inl ⟨trivial, rfl, rfl⟩))
    · exact .inr (.inr (.inr ⟨trivial, rfl, rfl⟩))
    · exact .inl rfl

/-- A state without what a host's memory write may change: the memories and the notes of accesses while BUSY. -/
def State.stripped (s : State) : State :=
  { s with inMem := [], outMem := [], palMem := [], idxMem := [], pixMem := [], tainted := false, dirtyPix := [], dirtyOut := [] }

theorem State.writeByte_stripped (s : State) (first a : Nat) (b : Byte) : (s.writeByte first a b).stripped = s.stripped := by
  unfold State.writeByte
  split
  · rfl
  · split
    · split <;> rfl
    · rename_i w _ _ _
      cases w <;> rfl

/-- A host's memory write changes nothing else. -/
theorem State.writeBytes_stripped (s : State) (first a : Nat) (bs : List Byte) :
    (s.writeBytes first a bs).stripped = s.stripped := by
  induction bs generalizing s a with
  | nil => rfl
  | cons b bs ih => rw [State.writeBytes, ih, State.writeByte_stripped]

@[simp] theorem State.writeBytes_ctrl (s : State) (first a : Nat) (bs : List Byte) :
    (s.writeBytes first a bs).ctrl = s.ctrl := by
  have h := congrArg State.ctrl (s.writeBytes_stripped first a bs); exact h

@[simp] theorem State.writeBytes_status (s : State) (first a : Nat) (bs : List Byte) :
    (s.writeBytes first a bs).status = s.status := by
  have h := congrArg State.status (s.writeBytes_stripped first a bs); exact h

@[simp] theorem State.writeBytes_inLen (s : State) (first a : Nat) (bs : List Byte) :
    (s.writeBytes first a bs).inLen = s.inLen := by
  have h := congrArg State.inLen (s.writeBytes_stripped first a bs); exact h

@[simp] theorem State.writeBytes_palCount (s : State) (first a : Nat) (bs : List Byte) :
    (s.writeBytes first a bs).palCount = s.palCount := by
  have h := congrArg State.palCount (s.writeBytes_stripped first a bs); exact h

@[simp] theorem State.writeBytes_outLen (s : State) (first a : Nat) (bs : List Byte) :
    (s.writeBytes first a bs).outLen = s.outLen := by
  have h := congrArg State.outLen (s.writeBytes_stripped first a bs); exact h

@[simp] theorem State.writeBytes_byteCursor (s : State) (first a : Nat) (bs : List Byte) :
    (s.writeBytes first a bs).byteCursor = s.byteCursor := by
  have h := congrArg State.byteCursor (s.writeBytes_stripped first a bs); exact h

@[simp] theorem State.writeBytes_pixCount (s : State) (first a : Nat) (bs : List Byte) :
    (s.writeBytes first a bs).pixCount = s.pixCount := by
  have h := congrArg State.pixCount (s.writeBytes_stripped first a bs); exact h

@[simp] theorem State.writeBytes_flipCursor (s : State) (first a : Nat) (bs : List Byte) :
    (s.writeBytes first a bs).flipCursor = s.flipCursor := by
  have h := congrArg State.flipCursor (s.writeBytes_stripped first a bs); exact h

@[simp] theorem State.writeBytes_flipLen (s : State) (first a : Nat) (bs : List Byte) :
    (s.writeBytes first a bs).flipLen = s.flipLen := by
  have h := congrArg State.flipLen (s.writeBytes_stripped first a bs); exact h

@[simp] theorem State.writeBytes_cmd (s : State) (first a : Nat) (bs : List Byte) :
    (s.writeBytes first a bs).cmd = s.cmd := by
  have h := congrArg State.cmd (s.writeBytes_stripped first a bs); exact h

@[simp] theorem State.writeBytes_mode (s : State) (first a : Nat) (bs : List Byte) :
    (s.writeBytes first a bs).mode = s.mode := by
  have h := congrArg State.mode (s.writeBytes_stripped first a bs); exact h

@[simp] theorem State.writeBytes_strict (s : State) (first a : Nat) (bs : List Byte) :
    (s.writeBytes first a bs).strict = s.strict := by
  have h := congrArg State.strict (s.writeBytes_stripped first a bs); exact h

@[simp] theorem State.writeBytes_pos (s : State) (first a : Nat) (bs : List Byte) :
    (s.writeBytes first a bs).pos = s.pos := by
  have h := congrArg State.pos (s.writeBytes_stripped first a bs); exact h

@[simp] theorem State.writeBytes_len (s : State) (first a : Nat) (bs : List Byte) :
    (s.writeBytes first a bs).len = s.len := by
  have h := congrArg State.len (s.writeBytes_stripped first a bs); exact h

@[simp] theorem State.writeBytes_count (s : State) (first a : Nat) (bs : List Byte) :
    (s.writeBytes first a bs).count = s.count := by
  have h := congrArg State.count (s.writeBytes_stripped first a bs); exact h

@[simp] theorem State.writeBytes_fcur (s : State) (first a : Nat) (bs : List Byte) :
    (s.writeBytes first a bs).fcur = s.fcur := by
  have h := congrArg State.fcur (s.writeBytes_stripped first a bs); exact h

@[simp] theorem State.writeBytes_ct (s : State) (first a : Nat) (bs : List Byte) :
    (s.writeBytes first a bs).ct = s.ct := by
  have h := congrArg State.ct (s.writeBytes_stripped first a bs); exact h

@[simp] theorem State.writeBytes_dl (s : State) (first a : Nat) (bs : List Byte) :
    (s.writeBytes first a bs).dl = s.dl := by
  have h := congrArg State.dl (s.writeBytes_stripped first a bs); exact h

@[simp] theorem State.writeBytes_dr (s : State) (first a : Nat) (bs : List Byte) :
    (s.writeBytes first a bs).dr = s.dr := by
  have h := congrArg State.dr (s.writeBytes_stripped first a bs); exact h

@[simp] theorem State.writeBytes_flipL (s : State) (first a : Nat) (bs : List Byte) :
    (s.writeBytes first a bs).flipL = s.flipL := by
  have h := congrArg State.flipL (s.writeBytes_stripped first a bs); exact h

@[simp] theorem State.writeBytes_nfb (s : State) (first a : Nat) (bs : List Byte) :
    (s.writeBytes first a bs).nfb = s.nfb := by
  have h := congrArg State.nfb (s.writeBytes_stripped first a bs); exact h

@[simp] theorem State.writeBytes_phase (s : State) (first a : Nat) (bs : List Byte) :
    (s.writeBytes first a bs).phase = s.phase := by
  have h := congrArg State.phase (s.writeBytes_stripped first a bs); exact h

@[simp] theorem State.writeBytes_plan (s : State) (first a : Nat) (bs : List Byte) :
    (s.writeBytes first a bs).plan = s.plan := by
  have h := congrArg State.plan (s.writeBytes_stripped first a bs); exact h

@[simp] theorem State.writeBytes_params (s : State) (first a : Nat) (bs : List Byte) :
    (s.writeBytes first a bs).params = s.params := by
  have h := congrArg State.params (s.writeBytes_stripped first a bs); exact h

@[simp] theorem State.writeBytes_hostQ (s : State) (first a : Nat) (bs : List Byte) :
    (s.writeBytes first a bs).hostQ = s.hostQ := by
  have h := congrArg State.hostQ (s.writeBytes_stripped first a bs); exact h

@[simp] theorem State.writeBytes_replies (s : State) (first a : Nat) (bs : List Byte) :
    (s.writeBytes first a bs).replies = s.replies := by
  have h := congrArg State.replies (s.writeBytes_stripped first a bs); exact h

@[simp] theorem State.writeBytes_draws (s : State) (first a : Nat) (bs : List Byte) :
    (s.writeBytes first a bs).draws = s.draws := by
  have h := congrArg State.draws (s.writeBytes_stripped first a bs); exact h

/-- The only access that is an instruction is a 32-bit write to CTRL with a START value. -/
theorem HostEvent.startRequest_some {e : HostEvent} {i : Instr} (h : e.startRequest = some i) :
    ∃ v, e = .write .w32 0#32 v ∧ decodeCommand v = some i := by
  unfold HostEvent.startRequest at h
  split at h
  · split at h
    · next ha => exact ⟨_, by rw [ha], h⟩
    · exact absurd h (by simp)
  · exact absurd h (by simp)

/-- A START value is one of the four commands. -/
theorem decodeCommand_cases {v : Word} {i : Instr} (h : decodeCommand v = some i) :
    i = .decode (ctrlMode v) (ctrlStrict v) ∨ i = .encode (ctrlMode v) (ctrlStrict v) ∨
      i = .sniff (ctrlMode v) (ctrlStrict v) ∨ i = .badCommand (ctrlCmd v) (ctrlMode v) (ctrlStrict v) := by
  unfold decodeCommand at h
  split at h
  · simp only at h
    split at h
    · simp_all
    · split at h
      · simp_all
      · split at h <;> simp_all
  · exact absurd h (by simp)

end Sys2Proof.Machine
end

