-- ==== Sys2Proof/Laws/PerInstr.lean ====
section
/-!
SUPPORT. The statements made per instruction. `EncodeLength`: how many bytes an instruction's encoding has
(30_encoding.md R88, R96).
-/

namespace Sys2Proof.Laws

open Sys2Proof

/-- A RUN has two bytes, every other token one, a START word four. -/
def EncodeLength.size : Instr → Nat
  | .sgl _ => 1
  | .dbl _ => 1
  | .dic _ => 1
  | .run _ _ => 2
  | .decode _ _ => 4
  | .encode _ _ => 4
  | .sniff _ _ => 4
  | .badCommand _ _ _ => 4

/-- The encoding has its instruction's size, and only START values take a word. -/
def EncodeLength.Statement (i : Instr) : Prop :=
  (encode i).length = EncodeLength.size i ∧ (i.source = .control ↔ EncodeLength.size i = 4)

theorem EncodeLength.sgl (i : BitVec 6) : EncodeLength.Statement (.sgl i) := ⟨rfl, by simp [Instr.source, EncodeLength.size]⟩

theorem EncodeLength.dbl (i : BitVec 6) : EncodeLength.Statement (.dbl i) := ⟨rfl, by simp [Instr.source, EncodeLength.size]⟩

theorem EncodeLength.dic (j : BitVec 6) : EncodeLength.Statement (.dic j) := ⟨rfl, by simp [Instr.source, EncodeLength.size]⟩

theorem EncodeLength.run (i : BitVec 6) (r : Byte) : EncodeLength.Statement (.run i r) :=
  ⟨rfl, by simp [Instr.source, EncodeLength.size]⟩

theorem EncodeLength.decode (m k : Bool) : EncodeLength.Statement (.decode m k) :=
  ⟨rfl, by simp [Instr.source, EncodeLength.size]⟩

theorem EncodeLength.encode (m k : Bool) : EncodeLength.Statement (.encode m k) :=
  ⟨rfl, by simp [Instr.source, EncodeLength.size]⟩

theorem EncodeLength.sniff (m k : Bool) : EncodeLength.Statement (.sniff m k) :=
  ⟨rfl, by simp [Instr.source, EncodeLength.size]⟩

theorem EncodeLength.badCommand (c : BitVec 3) (m k : Bool) : EncodeLength.Statement (.badCommand c m k) :=
  ⟨rfl, by simp [Instr.source, EncodeLength.size]⟩

end Sys2Proof.Laws
end

