-- ==== Sys2Proof/Tests/Slice0.lean ====
section
/-!
SUPPORT. Small tests: ill-formed terms, words written out from the spec's encodings, one-step checks whose expected
results are those of 95_test_vectors.md (S and V numbers) or worked by hand from the rule named; and for each statement
with hypotheses a witness that they can be met together.
-/

open Sys2Proof Sys2Proof.Machine

namespace Sys2Proof.Tests

-- One theorem after another: each waits on the kernel, and side by side their threads' stacks fill the memory allowed.
set_option Elab.async false

/-! Ill-formed terms are refused (10_state.md R22: CMD 1 to 3 are not reserved). -/

theorem test_ill_formed_badCommand_decode : (Instr.badCommand 1#3 false true).wellFormed = false := by decide
theorem test_ill_formed_badCommand_encode : (Instr.badCommand 2#3 true false).wellFormed = false := by decide
theorem test_ill_formed_badCommand_sniff : (Instr.badCommand 3#3 true true).wellFormed = false := by decide
theorem test_well_formed_badCommand : ∀ c ∈ [0#3, 4#3, 5#3, 6#3, 7#3], (Instr.badCommand c false true).wellFormed = true := by
  decide

/-! Words written out bit by bit from R88 (tokens), R97 (`RUN 5, 13` is `C5 0A`) and R96 (START values). -/

theorem test_decode_sgl : decode .stream [0b00111110#8, 0x99#8] = .ok (.sgl 62#6) [0x99#8] := by decide
theorem test_decode_dbl : decode .stream [0b01100001#8] = .ok (.dbl 33#6) [] := by decide
theorem test_decode_dic : decode .stream [0b10000001#8] = .ok (.dic 1#6) [] := by decide
theorem test_decode_run : decode .stream [0xC5#8, 0x0A#8] = .ok (.run 5#6 10#8) [] ∧ runLength 10#8 = 13 := by decide
theorem test_decode_run_cut : decode .stream [0xC5#8] = .rejected .runByteMissing := by decide
theorem test_decode_nothing : decode .stream [] = .rejected .exhausted := by decide
theorem test_decode_control_decode :
    decode .control [0x11#8, 0x00#8, 0x00#8, 0x80#8] = .ok (.decode false true) [] := by decide
theorem test_decode_control_encode :
    decode .control [0x0A#8, 0x00#8, 0x00#8, 0x80#8] = .ok (.encode true false) [] := by decide
theorem test_decode_control_sniff :
    decode .control [0x13#8, 0x00#8, 0x00#8, 0x80#8] = .ok (.sniff false true) [] := by decide
theorem test_decode_control_badCommand :
    decode .control [0x14#8, 0x00#8, 0x00#8, 0x80#8] = .ok (.badCommand 4#3 false true) [] := by decide
theorem test_decode_control_no_start :
    decode .control [0x11#8, 0x00#8, 0x00#8, 0x00#8] = .rejected .noStart := by decide
theorem test_decode_control_reserved_bits : decodeCommand 0xFFFFFFF1#32 = some (.decode false true) := by decide
theorem test_encode_run : encode (.run 5#6 10#8) = [0xC5#8, 0x0A#8] := by decide
theorem test_encode_start : encode (.sniff false true) = [0x13#8, 0x00#8, 0x00#8, 0x80#8] := by decide
theorem test_table_words :
    decodeTableWord 8 0x3E = some (.sgl 62#6) ∧ decodeTableWord 8 0x61 = some (.dbl 33#6) ∧
    decodeTableWord 8 0x81 = some (.dic 1#6) ∧ decodeTableWord 16 0x0AC5 = some (.run 5#6 10#8) ∧
    decodeTableWord 32 0x80000001 = some (.decode false false) ∧
    decodeTableWord 32 0x80000002 = some (.encode false false) ∧
    decodeTableWord 32 0x80000003 = some (.sniff false false) ∧
    decodeTableWord 32 0x80000000 = some (.badCommand 0#3 false false) := by decide

/-! States for the one-step tests. -/

/-- A table whose entry `k` is a base colour plus `k`. -/
def table (base : Nat) : Vector Colour 64 := Vector.ofFn fun k => BitVec.ofNat 15 (base + k.val)

/-- A command among its tokens: one flip byte 0x01 at 386, the tokens from 387 on. -/
def midway (cmd : BitVec 3) (count : Nat) (tokens : List Byte) : State :=
  { State.reset with
    status := busyStatus, cmd := cmd, phase := .pixels, flipL := 3#16, nfb := 1
    ct := table 0x100, dl := table 0x200, dr := table 0x300
    inMem := Memory.writeBytes [] 386 (0x01#8 :: tokens), pos := 387, len := 387 + tokens.length, count := count }

/-- A command before one of its sections, all of IN zero. -/
def before (cmd : BitVec 3) (p : Phase) (len : Nat) : State :=
  { State.reset with status := busyStatus, cmd := cmd, phase := p, len := len }

/-- The idle core with one host access pending. -/
def asked (e : HostEvent) : State := { State.reset with hostQ := [e] }

/-- A busy core with one host access pending. -/
def askedBusy (e : HostEvent) : State := { before 1#3 .ct 500 with hostQ := [e] }

/-! One step of each instruction. -/

-- V16: SGL 5 at count 0.
theorem test_sgl : (stepEffect (midway 1#3 0 [0x05#8])).pixel 0 = 0x105#16 ∧
    (stepEffect (midway 1#3 0 [0x05#8])).pos = 388 := by decide +kernel
-- V19: SGL at column 99 fits its row.
theorem test_sgl_column_99 : (stepEffect (midway 1#3 99 [0x01#8])).count = 100 ∧
    (stepEffect (midway 1#3 99 [0x01#8])).pixel 99 = 0x101#16 := by decide +kernel
-- V17: DBL at column 98.
theorem test_dbl : (stepEffect (midway 1#3 98 [0x42#8])).pixel 98 = 0x102#16 ∧
    (stepEffect (midway 1#3 98 [0x42#8])).pixel 99 = 0x102#16 := by decide +kernel
-- V18: DBL at column 99 is ROW_OVERFLOW.
theorem test_dbl_column_99 : (stepEffect (midway 1#3 99 [0x42#8])).status = 0x5606#32 ∧
    (stepEffect (midway 1#3 99 [0x42#8])).pixCount = 99#32 := by decide +kernel
-- S1b: flip bit 0 set reverses the pair.
theorem test_dic : (stepEffect (midway 1#3 0 [0x82#8])).pixel 0 = 0x302#16 ∧
    (stepEffect (midway 1#3 0 [0x82#8])).pixel 1 = 0x202#16 ∧
    (stepEffect (midway 1#3 0 [0x82#8])).fcur = 1 := by decide +kernel
-- V23: the ninth DIC with one flip byte is FLIP_OVERRUN.
theorem test_dic_overrun : (stepEffect { midway 1#3 16 [0x80#8] with fcur := 8 }).status = 0x5706#32 ∧
    (stepEffect { midway 1#3 16 [0x80#8] with fcur := 8 }).flipCursor = 8#32 := by decide +kernel
-- S2: RUN 5, 13.
theorem test_run : (stepEffect (midway 1#3 0 [0xC5#8, 0x0A#8])).count = 13 ∧
    (stepEffect (midway 1#3 0 [0xC5#8, 0x0A#8])).pixel 12 = 0x105#16 ∧
    (stepEffect (midway 1#3 0 [0xC5#8, 0x0A#8])).pixel 13 = 0#16 := by decide +kernel
-- V27: RUN 1, 258 is ROW_OVERFLOW at its opcode byte.
theorem test_run_overflow : (stepEffect (midway 1#3 0 [0xC1#8, 0xFF#8])).status = 0x5606#32 ∧
    (stepEffect (midway 1#3 0 [0xC1#8, 0xFF#8])).byteCursor = 387#32 := by decide +kernel
-- P5 step 5: a START of DECODE, and V35: IN_LEN = IN_CAP + 1.
theorem test_decode_start : (effect (.decode false true) State.reset).ctrl = 0x11#32 ∧
    (effect (.decode false true) State.reset).status = 1#32 := by decide +kernel
theorem test_decode_bad_length :
    (effect (.decode false true) { State.reset with inLen := 131073#32 }).status = 0x7A06#32 := by decide +kernel
-- V37: PAL_COUNT 0; V39: PAL_COUNT 2, the eighth index 5.
theorem test_encode_empty_palette : (effect (.encode true true) State.reset).status = 0x7406#32 ∧
    (effect (.encode true true) State.reset).pixCount = 0#32 := by decide +kernel
theorem test_encode_bad_index :
    (effect (.encode false true) { State.reset with palCount := 2#32, idxMem := [(7, 5#8)] }).status = 0x7406#32 ∧
    (effect (.encode false true) { State.reset with palCount := 2#32, idxMem := [(7, 5#8)] }).pixCount = 7#32 := by
  decide +kernel
-- P5 step 4: a loose SNIFF leaves CTRL 0x0000_0003; V35: BAD_LENGTH sets ERR in SNIFF too.
theorem test_sniff_start : (effect (.sniff false false) State.reset).ctrl = 0x3#32 ∧
    (effect (.sniff false false) State.reset).phase = .ct := by decide +kernel
theorem test_sniff_bad_length :
    (effect (.sniff false true) { State.reset with inLen := 131073#32 }).status = 0x7A06#32 := by decide +kernel
-- V36.
theorem test_badCommand : (effect (.badCommand 0#3 false true) State.reset).status = 0x7906#32 ∧
    (effect (.badCommand 4#3 false true) State.reset).status = 0x7906#32 := by decide +kernel
-- V30 and S4: the stream ends at a token boundary, in DECODE and in SNIFF.
theorem test_exhausted : (stepEffect (midway 1#3 0 [])).status = 0x5306#32 ∧
    (stepEffect (midway 3#3 4999 [])).status = 0x5302#32 := by decide +kernel
-- V12, V13, V14: the flip section's bytes.
theorem test_flip_bytes : flipBytes [false, true, true] = [0x06#8] ∧ flipBytes (List.replicate 8 true) = [0xFF#8] ∧
    flipBytes (List.replicate 9 true) = [0xFF#8, 0x01#8] ∧ flipLength (List.replicate 9 true) = 4#16 := by decide +kernel
-- V44, row 0: two pairs and a run of 96.
theorem test_walk_row :
    walkRow (fun k => BitVec.ofNat 15 k) (fun _ _ => true) 100 ([3, 4, 1, 2] ++ List.replicate 96 0) =
      [.pair 3#15 4#15, .pair 1#15 2#15, .run 0 96] := by decide +kernel
-- V44: of two keys as frequent, the one seen first stands first.
theorem test_select_ties : selectKeys [(3#15, 4#15), (1#15, 2#15), (1#15, 2#15), (3#15, 4#15)] =
    [(3#15, 4#15), (1#15, 2#15)] := by decide +kernel
-- R71 (the host's access while BUSY): a register write is ignored.
theorem test_busy_write_ignored :
    (stepEffect (askedBusy (.write .w32 0x08#32 7#32))).inLen = 0#32 := by decide +kernel

/-- A core whose OUT fills its window up to the first address of IN. -/
def wideOut : State := { State.reset with params := { inCap := 131072, outCap := 32768 } }

-- R67 and U18: with OUT_CAP = 32768 an access at the last byte of OUT performs that byte and no byte of IN.
theorem test_write_past_window :
    (stepEffect { wideOut with hostQ := [.write .w32 0xFFFF#32 0x44332211#32] }).outMem.read 32767 = 0x11#8 ∧
    (stepEffect { wideOut with hostQ := [.write .w32 0xFFFF#32 0x44332211#32] }).inMem = [] := by decide +kernel
theorem test_read_past_window :
    (stepEffect { wideOut with
      hostQ := [.read .w16 0xFFFF#32], outMem := [(32767, 0x11#8)], inMem := [(0, 0x22#8)] }).replies = [0x11#32] := by
  decide +kernel

/-! The word the host stores is the instruction the next step runs. -/

theorem test_fetch_token : step (State.reset.withFetchWord 16 0x0AC5) =
    exec (.run 5#6 10#8) (State.reset.withFetchWord 16 0x0AC5) := by rfl
theorem test_fetch_command : step (State.reset.withFetchWord 32 0x80000001) =
    exec (.decode false false) (State.reset.withFetchWord 32 0x80000001) := by rfl

/-!
Witnesses: for each statement with hypotheses, a state and operands that meet them together, a clause at the boundary
of its range.
-/

/-- A raster that ENCODE accepts, with the extreme palette size and index. -/
def fullRaster : State := { State.reset with palCount := 64#32, idxMem := [(4999, 63#8)] }

/-- A raster whose last pixel names no palette entry (V40). -/
def badRaster : State := { State.reset with palCount := 64#32, idxMem := [(4999, 64#8)] }

theorem read_single (k a : Nat) (v : Byte) : Memory.read [(a, v)] k = if a = k then v else background := rfl

theorem fullRaster_ok : RasterOk fullRaster := by
  refine ⟨by decide, by decide, fun k _ => ?_⟩
  simp only [fullRaster, read_single]
  split <;> decide

theorem smallRaster_ok : RasterOk { State.reset with palCount := 1#32 } :=
  ⟨by decide, by decide, fun _ _ => (by decide : background.toNat < (1#32).toNat)⟩

theorem witness_DecodeEncodeAgree : (Instr.badCommand 0#3 false true).wellFormed = true ∧
    (Instr.badCommand 7#3 true false).wellFormed = true ∧ (Instr.run 63#6 0xFF#8).wellFormed = true ∧
    (Instr.encode true false).wellFormed = true := by decide

theorem witness_EveryOpcodeByteDecodes : (0x3F#8).toNat < 64 ∧ (64 ≤ (0x40#8).toNat ∧ (0x7F#8).toNat < 128) ∧
    (128 ≤ (0x80#8).toNat ∧ (0xBF#8).toNat < 192) ∧ 192 ≤ (0xC0#8).toNat := by decide

theorem witness_TokenLengthFromFirstByte : 192 ≤ (0xC0#8).toNat ∧ (0xBF#8).toNat < 192 := by decide

theorem witness_StartWordsReencode :
    (0x80000000#32).getLsbD 31 = true ∧ (0x7FFFFFFF#32).getLsbD 31 = false := by decide

theorem witness_StepRunsDecodedInstruction :
    ((midway 1#3 0 [0x05#8]).hostQ = [] ∧ (midway 1#3 0 [0x05#8]).phase = .pixels ∧
      (midway 1#3 0 [0x05#8]).encoding = false ∧ (midway 1#3 0 [0x05#8]).count < 5000 ∧
      decode .stream (midway 1#3 0 [0x05#8]).tokenBytes = .ok (.sgl 5#6) []) ∧
    ((midway 3#3 4999 [0xC5#8, 0x0A#8]).encoding = false ∧ (midway 3#3 4999 [0xC5#8, 0x0A#8]).count < 5000 ∧
      decode .stream (midway 3#3 4999 [0xC5#8, 0x0A#8]).tokenBytes = .ok (.run 5#6 10#8) [] ∧
      ({ midway 3#3 4999 [0xC5#8, 0x0A#8] with hostQ := [.wait] }).hostQ = .wait :: []) ∧
    (asked (.write .w32 0#32 0x80000011#32)).hostQ = .write .w32 0#32 0x80000011#32 :: [] ∧
    decodeCommand 0x80000011#32 = some (.decode false true) := by decide +kernel

theorem witness_ResetEventFromAnyState : (askedBusy .reset).hostQ = .reset :: [] ∧ (askedBusy .reset).busy = true := by
  decide

theorem witness_SglPaintsOnePixel : (midway 1#3 99 [0x05#8]).sniffing = false := by decide

theorem witness_DblPaintsTwoPixels : (midway 1#3 98 []).sniffing = false ∧ (midway 1#3 98 []).count % 100 + 2 ≤ 100 ∧
    100 < (midway 1#3 99 []).count % 100 + 2 ∧ (midway 1#3 99 []).undisturbed := by decide

theorem witness_DicPaintsAPair : (midway 1#3 98 []).sniffing = false ∧
    ((midway 1#3 98 []).count % 100 + 2 ≤ 100 ∧ (midway 1#3 98 []).fcur < 8 * (midway 1#3 98 []).nfb ∧
      ((midway 1#3 98 []).inMem.read (386 + 0 / 8)).getLsbD (0 % 8) = true) ∧
    (({ midway 1#3 98 [] with fcur := 7 }).fcur < 8 * (midway 1#3 98 []).nfb ∧
      ((midway 1#3 98 []).inMem.read (386 + 7 / 8)).getLsbD (7 % 8) = false) ∧
    (100 < (midway 1#3 99 []).count % 100 + 2 ∧ (midway 1#3 99 []).undisturbed) ∧
    8 * (midway 1#3 98 []).nfb ≤ ({ midway 1#3 98 [] with fcur := 8 }).fcur := by decide +kernel

theorem witness_RunPaintsARun : (midway 1#3 0 []).sniffing = false ∧
    (midway 1#3 0 []).count % 100 + ((97#8).toNat + 3) ≤ 100 ∧
    100 < (midway 1#3 0 []).count % 100 + ((98#8).toNat + 3) ∧ (midway 1#3 0 []).undisturbed ∧
    ((midway 1#3 4900 [0xC0#8]).phase = .pixels ∧ (midway 1#3 4900 [0xC0#8]).encoding = false ∧
      (midway 1#3 4900 [0xC0#8]).count < 5000 ∧ (midway 1#3 4900 [0xC0#8]).undisturbed ∧
      (midway 1#3 4900 [0xC0#8]).len = (midway 1#3 4900 [0xC0#8]).pos + 1 ∧
      192 ≤ ((midway 1#3 4900 [0xC0#8]).inMem.read (midway 1#3 4900 [0xC0#8]).pos).toNat) := by decide +kernel

theorem witness_ExhaustedStreamAborts : (midway 3#3 4999 []).hostQ = [] ∧ (midway 3#3 4999 []).phase = .pixels ∧
    (midway 3#3 4999 []).encoding = false ∧ (midway 3#3 4999 []).count < 5000 ∧ (midway 3#3 4999 []).undisturbed ∧
    (midway 3#3 4999 []).len ≤ (midway 3#3 4999 []).pos := by decide

theorem witness_SniffCountsTokens : (Instr.dbl 0#6).source = .stream ∧ (midway 3#3 4998 []).sniffing = true ∧
    (midway 3#3 4998 []).count + (tokenYield (.dbl 0#6)).2.1 ≤ 5000 ∧
    5000 < (midway 3#3 4999 []).count + (tokenYield (.dbl 0#6)).2.1 ∧ (midway 3#3 4999 []).undisturbed := by decide

/-- IN_LEN equal to the capacity: the boundary of BAD_LENGTH. -/
def fullLength : State := { State.reset with inLen := 131072#32 }

theorem witness_DecodeStarts : fullLength.busy = false ∧ fullLength.inLen.toNat ≤ fullLength.params.inCap := by decide

theorem witness_SniffStarts : fullLength.busy = false ∧ fullLength.inLen.toNat ≤ fullLength.params.inCap := by decide

theorem witness_EncodeStarts : (fullRaster.busy = false ∧ RasterOk fullRaster) ∧
    RasterOk { State.reset with palCount := 1#32 } := ⟨⟨by decide, fullRaster_ok⟩, smallRaster_ok⟩

theorem witness_UnsupportedRasterAborts : badRaster.busy = false ∧ badRaster.undisturbed ∧
    State.reset.palCount.toNat = 0 ∧ 64 < ({ State.reset with palCount := 65#32 }).palCount.toNat ∧
    1 ≤ badRaster.palCount.toNat ∧ badRaster.palCount.toNat ≤ 64 ∧
    badRaster.palCount.toNat ≤ (badRaster.idxMem.read 4999).toNat ∧
    ∀ l, l < 4999 → (badRaster.idxMem.read l).toNat < badRaster.palCount.toNat := by
  refine ⟨by decide, by decide, by decide, by decide, by decide, by decide, by decide, fun l hl => ?_⟩
  simp only [badRaster, read_single]
  rw [if_neg (by omega)]; decide

theorem witness_StartChecksAbort : State.reset.busy = false ∧ State.reset.undisturbed ∧
    ((0#3) ≠ 1#3 ∧ (0#3) ≠ 2#3 ∧ (0#3) ≠ 3#3) ∧ ((4#3) ≠ 1#3 ∧ (4#3) ≠ 2#3 ∧ (4#3) ≠ 3#3) ∧
    State.reset.params.inCap < ({ State.reset with inLen := 131073#32 }).inLen.toNat := by decide

theorem witness_BusyIgnoresRegisterWrites :
    (askedBusy (.write .w32 0#32 0x80000013#32)).busy = true ∧ (0#32).toNat < 0x40 ∧
    (askedBusy (.write .w8 0x3F#32 1#32)).hostQ = .write .w8 0x3F#32 1#32 :: [] ∧ (0x3F#32).toNat < 0x40 := by decide

/-! The sections at the length they need and at one byte less. -/

theorem witness_ColorTableLoads :
    ((before 1#3 .ct 128).hostQ = [] ∧ (before 1#3 .ct 128).phase = .ct ∧ (before 1#3 .ct 128).encoding = false ∧
      (before 1#3 .ct 128).sniffing = false ∧ 128 ≤ (before 1#3 .ct 128).len) ∧
    (before 1#3 .ct 127).len < 128 ∧ (before 1#3 .ct 127).undisturbed := by decide

theorem witness_DictionaryLoads :
    ((before 1#3 .dict 384).hostQ = [] ∧ (before 1#3 .dict 384).phase = .dict ∧ (before 1#3 .dict 384).encoding = false ∧
      (before 1#3 .dict 384).sniffing = false ∧ 384 ≤ (before 1#3 .dict 384).len) ∧
    (before 1#3 .dict 383).len < 384 ∧ (before 1#3 .dict 383).undisturbed := by decide

theorem witness_SniffSkipsTables :
    ((before 3#3 .ct 128).hostQ = [] ∧ (before 3#3 .ct 128).sniffing = true ∧ (before 3#3 .ct 128).encoding = false ∧
      128 ≤ (before 3#3 .ct 128).len ∧ (before 3#3 .ct 127).len < 128 ∧ (before 3#3 .ct 127).undisturbed) ∧
    384 ≤ (before 3#3 .dict 384).len ∧ (before 3#3 .dict 383).len < 384 ∧ (before 3#3 .dict 383).undisturbed := by decide

theorem witness_FlipLengthReads :
    (386 ≤ (before 3#3 .flen 386).len ∧
      2 ≤ inField { before 3#3 .flen 386 with inMem := [(384, 2#8)] } 384 ∧
      inField { before 3#3 .flen 386 with inMem := [(384, 1#8)] } 384 < 2) ∧
    (before 3#3 .flen 386).encoding = false ∧ (before 3#3 .flen 385).len < 386 ∧
    (before 1#3 .flen 385).undisturbed := by decide +kernel

theorem witness_FlipBitsSkip : (before 1#3 .fbits 389).encoding = false ∧
    386 + ({ before 1#3 .fbits 389 with nfb := 3 }).nfb ≤ ({ before 1#3 .fbits 389 with nfb := 3 }).len ∧
    ({ before 1#3 .fbits 388 with nfb := 3 }).len < 386 + ({ before 1#3 .fbits 388 with nfb := 3 }).nfb ∧
    (before 1#3 .fbits 388).undisturbed := by decide

theorem witness_DecodeEnds : (before 1#3 .ending 0).hostQ = [] ∧ (before 1#3 .ending 0).phase = .ending ∧
    (before 1#3 .ending 0).encoding = false ∧ (before 1#3 .ending 0).sniffing = false ∧
    (before 1#3 .ending 0).undisturbed ∧ (before 1#3 .ending 1).pos < (before 1#3 .ending 1).len ∧
    (midway 1#3 5000 []).phase = .pixels ∧ 5000 ≤ (midway 1#3 5000 []).count ∧
    (midway 1#3 5000 []).encoding = false ∧ (midway 1#3 5000 []).sniffing = false := by decide

theorem witness_SniffEnds : (before 3#3 .ending 1).hostQ = [] ∧ (before 3#3 .ending 1).phase = .ending ∧
    (before 3#3 .ending 1).sniffing = true ∧ (before 3#3 .ending 1).undisturbed ∧ (before 3#3 .ending 1).strict = true ∧
    (before 3#3 .ending 1).pos ≠ (before 3#3 .ending 1).len ∧
    (midway 3#3 5000 []).phase = .pixels ∧ 5000 ≤ (midway 3#3 5000 []).count ∧ (midway 3#3 5000 []).sniffing = true := by
  decide

theorem witness_EncodeEnds : (before 2#3 .ending 0).hostQ = [] ∧ (before 2#3 .ending 0).phase = .ending ∧
    (before 2#3 .ending 0).encoding = true ∧ (before 2#3 .ending 0).undisturbed := by decide

theorem witness_ColorTableWrites : (before 2#3 .ct 0).hostQ = [] ∧ (before 2#3 .ct 0).phase = .ct ∧
    (before 2#3 .ct 0).encoding = true := by decide

theorem witness_DictionaryWrites : (before 2#3 .dict 0).hostQ = [] ∧ (before 2#3 .dict 0).phase = .dict ∧
    (before 2#3 .dict 0).encoding = true := by decide

/-- An ENCODE before FLIP_WRITE, with as many flip bits as an image can have. -/
def fullFlips : State := { before 2#3 .flen 0 with plan := { sel := [], flips := List.replicate 2500 true, body := [] } }

theorem witness_FlipTableWrites : fullFlips.hostQ = [] ∧ fullFlips.phase = .flen ∧ fullFlips.encoding = true ∧
    fullFlips.plan.flips.length ≤ 2500 := ⟨rfl, rfl, rfl, le_of_eq (List.length_replicate ..)⟩

theorem witness_TokenBytesWrite : (before 2#3 .pixels 0).hostQ = [] ∧ (before 2#3 .pixels 0).phase = .pixels ∧
    (before 2#3 .pixels 0).encoding = true := by decide

theorem witness_DegenerateIsOneSglPerPixel : fullRaster.mode = false ∧ RasterOk fullRaster := ⟨by decide, fullRaster_ok⟩

theorem witness_WalkReproducesRow : (List.replicate 100 0).length ≤ 100 ∧
    WalkToken.run 0 100 ∈ walkRow (fun _ => 0#15) (fun _ _ => true) 100 (List.replicate 100 0) ∧
    WalkToken.pair 1#15 2#15 ∈ walkRow (BitVec.ofNat 15) (fun _ _ => true) 2 [1, 2] ∧
    (RunAt [4, 4, 4, 5] 4 3 ∧ RunAt [4, 4, 5] 4 2 ∧ RunAt [4, 5] 4 1 ∧ RunAt [4] 4 1) := by
  refine ⟨by decide +kernel, by decide +kernel, by decide +kernel, ?_, ?_, ?_, ?_⟩ <;>
    exact ⟨by decide, by decide, by decide, by decide⟩

/-- 65 keys, each once: the last is not selected. -/
theorem witness_SelectionIsMostFrequent :
    (64#15, 0#15) ∈ ((List.range 65).map fun k => (BitVec.ofNat 15 k, 0#15)) ∧
    (64#15, 0#15) ∉ selectKeys ((List.range 65).map fun k => (BitVec.ofNat 15 k, 0#15)) ∧
    (63#15, 0#15) ∈ selectKeys ((List.range 65).map fun k => (BitVec.ofNat 15 k, 0#15)) := by decide +kernel

theorem witness_KeyAndFlipGiveThePair : pairFlip 3#15 4#15 = false ∧ pairFlip 4#15 4#15 = false ∧
    pairFlip 4#15 3#15 = true := by decide

theorem witness_WalkBytesDecode : (List.replicate 64 (3#15, 4#15)).length ≤ 64 ∧
    pairKey 4#15 3#15 ∈ List.replicate 64 (3#15, 4#15) := by decide +kernel

theorem witness_OutputFitsBound : State.reset.mode = false := rfl

theorem witness_HostMapAsGiven : Params.standard.legal ∧ Params.legal { inCap := 70919, outCap := 5386 } ∧
    Params.legal { inCap := 4294901760, outCap := 32768 } ∧
    memoryAt { inCap := 131072, outCap := 32768 } 0xFFFF = some (.out, 32767) ∧
    memoryAt { inCap := 131072, outCap := 32768 } 0x10000 = some (.inp, 0) ∧
    memoryAt Params.standard 0xFFF = none := by decide

theorem witness_IdleMemoryWrites : (asked (.write .w32 0xFFFFFFFF#32 1#32)).busy = false ∧
    0x40 ≤ (0xFFFFFFFF#32).toNat ∧ 0x40 ≤ (0x40#32).toNat ∧
    (asked (.write .w32 0x3386#32 1#32)).hostQ = .write .w32 0x3386#32 1#32 :: [] ∧
    Performs Params.standard 0x3386 4 .idx 4999 := by decide

theorem witness_IdleMemoryReads : (asked (.read .w16 0x107F#32)).busy = false ∧ 0x40 ≤ (0x107F#32).toNat ∧
    (asked (.read .w16 0x107F#32)).hostQ = .read .w16 0x107F#32 :: [] := by decide

theorem witness_IdleRegisterReads : (asked (.read .w32 0x3C#32)).busy = false ∧ (0x3C#32).toNat < 0x40 ∧
    (asked (.read .w32 0x3C#32)).hostQ = .read .w32 0x3C#32 :: [] := by decide

theorem witness_IdleRegisterWrites : (asked (.write .w32 0#32 0x7FFFFFFF#32)).busy = false ∧ (0#32).toNat < 0x40 ∧
    (0x7FFFFFFF#32).getLsbD 31 = false ∧
    (asked (.write .w32 0#32 0x7FFFFFFF#32)).hostQ = .write .w32 0#32 0x7FFFFFFF#32 :: [] ∧
    (asked (.write .w32 0x08#32 1#32)).hostQ = .write .w32 0x08#32 1#32 :: [] ∧
    (asked (.write .w32 0x0C#32 0xFF#32)).hostQ = .write .w32 0x0C#32 0xFF#32 :: [] ∧
    (0x3F#32).toNat < 0x40 ∧ Width.w16 ≠ .w32 ∧ (0x04#32) ≠ 0#32 ∧ (0x04#32) ≠ 0x08#32 ∧ (0x04#32) ≠ 0x0C#32 := by decide

theorem witness_BusyReads : (askedBusy (.read .w32 0x20#32)).busy = true ∧
    (askedBusy (.read .w32 0x20#32)).hostQ = .read .w32 0x20#32 :: [] ∧
    ((0x3F#32).toNat < 0x40 ∧ (0x3F#32).toNat % 4 ≠ 0 ∧ (0x24#32).toNat < 0x40 ∧ 0x24 ≤ (0x24#32).toNat) ∧
    (0x40 ≤ (0x670E#32).toNat ∧ (askedBusy (.read .w32 0x670E#32)).hostQ = .read .w32 0x670E#32 :: [] ∧
      resultBytes State.reset.params 0x670E 4 = 2) := by decide +kernel

theorem witness_BusyMemoryWrites : (askedBusy (.write .w32 0x10000#32 1#32)).busy = true ∧ 0x40 ≤ (0x10000#32).toNat ∧
    (askedBusy (.write .w32 0x10000#32 1#32)).hostQ = .write .w32 0x10000#32 1#32 :: [] ∧
    Performs State.reset.params 0x10000 4 .inp 3 ∧ Performs State.reset.params 0x4000 1 .pix 0 ∧
    Performs State.reset.params 0x9FFE 4 .out 8191 := by decide +kernel

/-- The last step of an ENCODE, and an aborting step of a DECODE, with bytes of PIX and OUT noted. -/
theorem witness_DirtyPixelsAreFree :
    (({ before 2#3 .ending 0 with dirtyPix := [9999, 0], dirtyOut := [8191] }).hostQ = [] ∧
      (before 2#3 .ending 0).phase ≠ .idle ∧ (before 2#3 .ending 0).tainted = false ∧
      step { before 2#3 .ending 0 with dirtyPix := [9999, 0], dirtyOut := [8191] } =
        .next (stepEffect { before 2#3 .ending 0 with dirtyPix := [9999, 0], dirtyOut := [8191] }) ∧
      (stepEffect { before 2#3 .ending 0 with dirtyPix := [9999, 0], dirtyOut := [8191] }).phase = .idle ∧
      (before 2#3 .ending 0).cmd ≠ 1#3) ∧
    (stepEffect { before 1#3 .ct 127 with dirtyPix := [9999, 0] }).phase = .idle ∧
    (stepEffect { before 1#3 .ct 127 with dirtyPix := [9999, 0] }).err = true ∧
    (stepEffect { before 1#3 .ending 0 with dirtyPix := [9999, 0] }).err = false :=
  ⟨⟨by decide, by decide, by decide, step_eq _, by decide +kernel, by decide⟩, by decide +kernel, by decide +kernel,
    by decide +kernel⟩

/-- A tainted ENCODE at its end, a tainted SNIFF that its stream's length rejects, and a tainted DECODE that aborts. -/
theorem witness_TaintedResultsAreFree :
    (({ before 2#3 .ending 0 with tainted := true }).hostQ = [] ∧ (before 2#3 .ending 0).phase ≠ .idle ∧
      ({ before 2#3 .ending 0 with tainted := true }).tainted = true ∧
      step { before 2#3 .ending 0 with tainted := true } =
        .next (stepEffect { before 2#3 .ending 0 with tainted := true }) ∧
      (stepEffect { before 2#3 .ending 0 with tainted := true }).phase = .idle) ∧
    (stepEffect { before 3#3 .ending 1 with tainted := true }).phase = .idle ∧
    (stepEffect { before 1#3 .ct 127 with tainted := true }).phase = .idle :=
  ⟨⟨by decide, by decide, by decide, step_eq _, by decide +kernel⟩, by decide +kernel, by decide +kernel⟩

/-- An abort in a table section, and one in the pixel stream after 99 pixels; a stream longer than IN_CAP. -/
theorem witness_AbortedPixelsAreFree :
    ((before 1#3 .ct 127).hostQ = [] ∧ (before 1#3 .ct 127).phase ≠ .idle ∧ (before 1#3 .ct 127).cmd = 1#3 ∧
      (before 1#3 .ct 127).tainted = false ∧ step (before 1#3 .ct 127) = .next (stepEffect (before 1#3 .ct 127)) ∧
      (stepEffect (before 1#3 .ct 127)).phase = .idle ∧ (stepEffect (before 1#3 .ct 127)).err = true) ∧
    ((stepEffect (midway 1#3 99 [0x42#8])).phase = .idle ∧ (stepEffect (midway 1#3 99 [0x42#8])).err = true) ∧
    ({ State.reset with inLen := 131073#32 }).busy = false ∧ ({ State.reset with inLen := 131073#32 }).tainted = false ∧
    ({ State.reset with inLen := 131073#32 }).params.inCap < ({ State.reset with inLen := 131073#32 }).inLen.toNat :=
  ⟨⟨by decide, by decide, by decide, by decide, step_eq _, by decide +kernel, by decide +kernel⟩, by decide +kernel,
    by decide, by decide, by decide⟩

theorem witness_StatusLayout : (before 1#3 .ct 0).status = statusWord true false false false false 0#4 0#3 := by decide

theorem witness_StepKeepsMemoriesCanonical :
    (midway 1#3 0 [0x05#8]).memoriesCanonical ∧ ∃ t, step (midway 1#3 0 [0x05#8]) = .next t :=
  ⟨by decide +kernel, _, step_eq _⟩

theorem witness_StepKeepsReservedBitsZero :
    (midway 1#3 0 [0x05#8]).reservedBitsZero ∧ ∃ t, step (midway 1#3 0 [0x05#8]) = .next t :=
  ⟨by decide +kernel, _, step_eq _⟩

theorem witness_StepKeepsCursorsInRange :
    (midway 1#3 0 [0x05#8]).cursorsInRange ∧ (midway 1#3 0 [0x05#8]).busyMatchesPhase ∧
    ∃ t, step (midway 1#3 0 [0x05#8]) = .next t := ⟨by decide +kernel, by decide +kernel, _, step_eq _⟩

theorem witness_StepKeepsMemoriesInWindows :
    (midway 1#3 0 [0x05#8]).params.legal ∧ (midway 1#3 0 [0x05#8]).memoriesInWindows ∧
    (midway 1#3 0 [0x05#8]).encodeFits ∧ (∀ o, o ∈ (midway 1#3 0 [0x05#8]).dirtyPix → o < pixBytes) ∧
    (∀ o, o ∈ (midway 1#3 0 [0x05#8]).dirtyOut → o < (midway 1#3 0 [0x05#8]).params.outCap) ∧
    (before 2#3 .ct 0).encodeFits ∧ ∃ t, step (midway 1#3 0 [0x05#8]) = .next t :=
  ⟨by decide +kernel, by decide +kernel, by decide +kernel, by decide +kernel, by decide +kernel, by decide +kernel, _,
    step_eq _⟩

theorem witness_IdleCoreDoesNothing : State.reset.hostQ = [] ∧ State.reset.phase = .idle := by decide

theorem witness_EngineLeavesInputsAlone : (midway 3#3 0 [0x05#8]).hostQ = [] ∧ (midway 3#3 0 [0x05#8]).undisturbed ∧
    (midway 3#3 0 [0x05#8]).encoding = false ∧ (midway 3#3 0 [0x05#8]).sniffing = true ∧
    ∃ t, step (midway 3#3 0 [0x05#8]) = .next t := ⟨by decide, by decide, by decide, by decide, _, step_eq _⟩

theorem witness_EveryCommandCompletes : (before 1#3 .ct 486).hostQ = [] ∧ (before 1#3 .ct 486).phase ≠ .idle := by
  decide

/-- A DECODE that ends with bytes left, one that ends with none, and one that aborts in its first section. -/
theorem witness_SniffFollowsDecode :
    ((before 1#3 .ending 1).hostQ = [] ∧ (before 1#3 .ending 1).undisturbed ∧ (before 1#3 .ending 1).cursorsInRange ∧
      (before 1#3 .ending 1).cmd = 1#3 ∧ (before 1#3 .ending 1).phase ≠ .idle) ∧
    (Sys2Proof.core.run 1 (before 1#3 .ending 1) = .next (stepEffect (before 1#3 .ending 1)) ∧
      (stepEffect (before 1#3 .ending 1)).phase = .idle ∧ (stepEffect (before 1#3 .ending 1)).err = false ∧
      (stepEffect (before 1#3 .ending 1)).trailing = true ∧ (before 1#3 .ending 1).strict = true) ∧
    ((stepEffect (before 1#3 .ending 0)).err = false ∧ (stepEffect (before 1#3 .ending 0)).trailing = false) ∧
    (stepEffect (before 1#3 .ct 127)).phase = .idle ∧ (stepEffect (before 1#3 .ct 127)).err = true ∧
    (stepEffect (before 1#3 .ct 127)).code ≠ 6#4 ∧ (stepEffect (before 1#3 .ct 127)).code ≠ 7#4 :=
  ⟨by decide +kernel, ⟨run_eq 1 _, by decide +kernel⟩, by decide +kernel, by decide +kernel, by decide +kernel,
    by decide +kernel, by decide +kernel⟩

theorem witness_BytesPastLengthDoNotMatter : (before 1#3 .ct 128).hostQ = [] ∧ (before 1#3 .ct 128).cursorsInRange ∧
    (∀ k, k < (before 1#3 .ct 128).len → Memory.read [(128, 1#8)] k = (before 1#3 .ct 128).inMem.read k) ∧
    Sys2Proof.core.run 1 (before 1#3 .ct 128) = .next (stepEffect (before 1#3 .ct 128)) := by
  refine ⟨by decide, by decide +kernel, fun k hk => ?_, by rw [run_eq, Function.iterate_one]⟩
  have h : (before 1#3 .ct 128).inMem = [] := rfl
  have hl : (before 1#3 .ct 128).len = 128 := rfl
  rw [hl] at hk
  rw [h, read_single, if_neg (by omega), Memory.read_nil]

theorem witness_EncodeThenDecodeIsIdentity :
    (∃ s : State, s.busy = false ∧ s.undisturbed ∧ RasterOk s ∧
      s.hostQ = [.write .w32 0#32 (startWord 2#3 true false)]) ∧
    ∀ t : State, ∃ u : State, u.busy = false ∧ u.undisturbed ∧ u.params.legal ∧
      u.hostQ = [.write .w32 0#32 (startWord 1#3 false true)] ∧ u.inLen = t.outLen ∧
      ∀ a, a < t.outLen.toNat → u.inMem.read a = t.outMem.read a :=
  ⟨⟨{ fullRaster with hostQ := [.write .w32 0#32 (startWord 2#3 true false)] }, by decide, by decide, fullRaster_ok, rfl⟩,
    fun t => ⟨{ State.reset with
      inLen := t.outLen, inMem := t.outMem, hostQ := [.write .w32 0#32 (startWord 1#3 false true)] },
      (by decide : State.reset.busy = false), (by decide : State.reset.undisturbed),
      (by decide : State.reset.params.legal), rfl, rfl, fun _ _ => rfl⟩⟩

end Sys2Proof.Tests
end

section
/-!
What a step can do, said once: `EngineMove` and `StepMove` list the ways a step can change the state, and `step_move`
says that every step is one of them. The invariants of 10_state.md are then one case analysis each.
-/

namespace Sys2Proof.Machine

open Sys2Proof

/-! The sections of DECODE and SNIFF. -/

theorem State.ctRead_cases (s : State) :
    (s.len < 128 ∧ s.ctRead = s.raise .shortRead .ct 0) ∨
      (128 ≤ s.len ∧ ∃ ct, s.ctRead = { s with ct := ct, pos := 128, phase := .dict }) := by
  unfold State.ctRead
  split
  · exact .inl ⟨by assumption, rfl⟩
  · split
    · exact .inr ⟨by omega, s.ct, rfl⟩
    · exact .inr ⟨by omega, _, rfl⟩

theorem State.dictRead_cases (s : State) :
    (s.len < 384 ∧ s.dictRead = s.raise .shortRead .dict 128) ∨
      (384 ≤ s.len ∧ ∃ dl dr, s.dictRead = { s with dl := dl, dr := dr, pos := 384, phase := .flen }) := by
  unfold State.dictRead
  split
  · exact .inl ⟨by assumption, rfl⟩
  · split
    · exact .inr ⟨by omega, s.dl, s.dr, rfl⟩
    · exact .inr ⟨by omega, _, _, rfl⟩

theorem State.flenRead_cases (s : State) :
    (s.len < 386 ∧ s.flenRead = s.raise .shortRead .flen 384) ∨
      (386 ≤ s.len ∧ (s.inHalf 384).toNat < 2 ∧
        s.flenRead = { s with flipL := s.inHalf 384 }.raise .badFlipLength .flen 384) ∨
      (386 ≤ s.len ∧ 2 ≤ (s.inHalf 384).toNat ∧
        s.flenRead =
          { s with flipL := s.inHalf 384, nfb := (s.inHalf 384).toNat - 2, pos := 386, phase := .fbits }) := by
  unfold State.flenRead
  split
  · exact .inl ⟨by assumption, rfl⟩
  · dsimp only
    split
    · exact .inr (.inl ⟨by omega, by assumption, rfl⟩)
    · exact .inr (.inr ⟨by omega, by omega, rfl⟩)

theorem State.fbitsRead_cases (s : State) :
    (s.len < 386 + s.nfb ∧ s.fbitsRead = s.raise .shortRead .fbits 386) ∨
      (386 + s.nfb ≤ s.len ∧ s.fbitsRead = { s with pos := 386 + s.nfb, phase := .pixels }) := by
  unfold State.fbitsRead
  split
  · exact .inl ⟨by assumption, rfl⟩
  · exact .inr ⟨by omega, rfl⟩

/-! The sections of ENCODE. -/

theorem State.ctWrite_eq (s : State) :
    s.ctWrite = { s with outMem := s.outMem.writeBytes 0 s.tableBytes, pos := 128, phase := .dict } := by
  simp only [State.ctWrite, State.putOut]

theorem State.dictWrite_eq (s : State) :
    s.dictWrite = { s with outMem := s.outMem.writeBytes 128 (dictBytes s.plan.sel), pos := 384, phase := .flen } := by
  simp only [State.dictWrite, State.putOut]

theorem State.flenWrite_eq (s : State) :
    s.flenWrite = { s with
      outMem := s.outMem.writeBytes 384 (bytesOfHalf (flipLength s.plan.flips))
      flipL := flipLength s.plan.flips, phase := .fbits } := by
  simp only [State.flenWrite, State.putOut]

theorem State.fbitsWrite_eq (s : State) :
    s.fbitsWrite = { s with
      outMem := s.outMem.writeBytes 386 (flipBytes s.plan.flips)
      pos := 386 + flipByteCount s.plan.flips, phase := .pixels } := by
  simp only [State.fbitsWrite, State.putOut]

theorem State.bodyWrite_eq (s : State) :
    s.bodyWrite = { s with
      outMem := s.outMem.writeBytes s.pos s.plan.body
      pos := s.pos + s.plan.body.length, fcur := s.plan.flips.length, phase := .ending } := by
  simp only [State.bodyWrite, State.putOut]

/-! The moves of the engine. -/

/-- The ways an engine step can change the state, with the bounds each keeps whatever the state before. -/
inductive EngineMove (s : State) : State → Prop
  /-- An idle core does nothing (60_exceptions.md R252). -/
  | rest : s.phase = .idle → EngineMove s s
  /-- ENCODE writes a section (40_table_codecs.md R113, R119, R125; 42_pixel_encoder.md R191). -/
  | write (a : Nat) (bs : List Byte) (p f : Nat) (l : Half) (ph : Phase) :
      s.encoding = true → s.phase ≠ .idle → ph ≠ .idle →
      EngineMove s { s with outMem := s.outMem.writeBytes a bs, pos := p, fcur := f, flipL := l, phase := ph }
  /-- DECODE or SNIFF takes a table section; `pos` moves past the bytes found present (R112, R118, R120, R122). -/
  | load (ct dl dr : Vector Colour 64) (l : Half) (n : Nat) (ph : Phase) :
      s.phase ≠ .idle → ph ≠ .idle → State.lengthSeen { s with nfb := n, phase := ph } ≤ s.len →
      EngineMove s { s with
        ct := ct, dl := dl, dr := dr, flipL := l, nfb := n
        pos := State.lengthSeen { s with nfb := n, phase := ph }, phase := ph }
  /-- DECODE paints a token that fits its row (41_pixel_decoder.md R146). -/
  | paint (size : Nat) (ps : List Colour) (d : Nat) :
      s.phase ≠ .idle → s.encoding = false → s.sniffing = false →
      s.pos + size ≤ s.len → s.count + ps.length ≤ 5000 → 2 * d ≤ ps.length →
      EngineMove s { s with
        pixMem := s.pixMem.writeBytes (2 * s.count) (pixelBytes ps)
        count := s.count + ps.length, pos := s.pos + size, fcur := s.fcur + d }
  /-- SNIFF counts a token (43_format_sniffer.md R213). -/
  | count (size n d : Nat) :
      s.phase ≠ .idle → s.pos + size ≤ s.len → s.count + n ≤ 5000 → 2 * d ≤ n →
      EngineMove s { s with pos := s.pos + size, count := s.count + n, fcur := s.fcur + d }
  /-- The token loop ends at 5000 pixels (41_pixel_decoder.md R143). -/
  | leave : s.phase ≠ .idle → EngineMove s { s with phase := .ending }
  /-- An abort, `pos` at an offset the command has reached (60_exceptions.md R240). -/
  | abort (l : Half) (e : Code) (c : Sec) (k : Nat) :
      k ≤ max s.pos s.lengthSeen → EngineMove s (State.raise e c k { s with flipL := l })
  /-- The end of a command; ENCODE reports 5000 pixels (42_pixel_encoder.md R181). -/
  | finish (n : Nat) (r : Result) :
      n = s.count ∨ (s.encoding = true ∧ n = 5000) → EngineMove s (State.complete r { s with count := n })

/-- An abort that leaves the flip length as it stands. -/
theorem EngineMove.raise {s : State} (e : Code) (c : Sec) {k : Nat} (h : k ≤ max s.pos s.lengthSeen) :
    EngineMove s (s.raise e c k) := .abort s.flipL e c k h

theorem EngineMove.raise_at_pos (s : State) (e : Code) (c : Sec) : EngineMove s (s.raise e c s.pos) :=
  .raise e c (le_max_left _ _)

theorem EngineMove.ctRead {s : State} (h : s.phase = .ct) : EngineMove s s.ctRead := by
  rcases s.ctRead_cases with ⟨_, he⟩ | ⟨hl, ct, he⟩ <;> rw [he]
  · exact .raise _ _ (Nat.zero_le _)
  · exact .load ct s.dl s.dr s.flipL s.nfb .dict (by simp [h]) (by decide) hl

theorem EngineMove.dictRead {s : State} (h : s.phase = .dict) : EngineMove s s.dictRead := by
  rcases s.dictRead_cases with ⟨_, he⟩ | ⟨hl, dl, dr, he⟩ <;> rw [he]
  · exact .raise _ _ (by simp [State.lengthSeen, h])
  · exact .load s.ct dl dr s.flipL s.nfb .flen (by simp [h]) (by decide) hl

theorem EngineMove.flenRead {s : State} (h : s.phase = .flen) : EngineMove s s.flenRead := by
  have hseen : 384 ≤ max s.pos s.lengthSeen := by simp [State.lengthSeen, h]
  rcases s.flenRead_cases with ⟨_, he⟩ | ⟨_, _, he⟩ | ⟨hl, _, he⟩ <;> rw [he]
  · exact .raise _ _ hseen
  · exact .abort _ _ _ _ hseen
  · exact .load s.ct s.dl s.dr _ _ .fbits (by simp [h]) (by decide) hl

theorem EngineMove.fbitsRead {s : State} (h : s.phase = .fbits) : EngineMove s s.fbitsRead := by
  rcases s.fbitsRead_cases with ⟨_, he⟩ | ⟨hl, he⟩ <;> rw [he]
  · exact .raise _ _ (by simp [State.lengthSeen, h])
  · exact .load s.ct s.dl s.dr s.flipL s.nfb .pixels (by simp [h]) (by decide) hl

theorem EngineMove.countToken {s : State} {size n d : Nat} (h : s.phase ≠ .idle) (hpos : s.pos + size ≤ s.len)
    (hd : 2 * d ≤ n) : EngineMove s (s.countToken size n d) := by
  rcases s.countToken_cases size n d with ⟨hn, he⟩ | ⟨_, he⟩ <;> rw [he]
  · exact .count size n d h hpos hn hd
  · exact .raise_at_pos s _ _

/-- The tokens of a DECODE, which stand before pixel 5000 with their bytes present. -/
theorem EngineMove.paintToken {s : State} {size : Nat} {ps : List Colour} (h : s.phase ≠ .idle)
    (he : s.encoding = false) (hs : s.sniffing = false) (hpos : s.pos + size ≤ s.len) (hc : s.count < 5000)
    (hrow : s.column + ps.length ≤ 100) : EngineMove s (s.paint size ps) := by
  rw [State.paint_eq]
  exact .paint size ps 0 h he hs hpos (s.count_fits hc hrow) (by omega)

theorem EngineMove.paintInRow {s : State} {size : Nat} {ps : List Colour} (h : s.phase ≠ .idle)
    (he : s.encoding = false) (hs : s.sniffing = false) (hpos : s.pos + size ≤ s.len) (hc : s.count < 5000) :
    EngineMove s (s.paintInRow size ps) := by
  rcases s.paintInRow_cases size ps with ⟨hrow, heq⟩ | ⟨_, heq⟩ <;> rw [heq]
  · exact .paintToken h he hs hpos hc hrow
  · exact .raise_at_pos s _ _

theorem EngineMove.paintPair {s : State} {j : BitVec 6} (h : s.phase ≠ .idle) (he : s.encoding = false)
    (hs : s.sniffing = false) (hpos : s.pos + 1 ≤ s.len) (hc : s.count < 5000) : EngineMove s (s.paintPair j) := by
  rcases s.paintPair_cases j with ⟨hrow, _, heq⟩ | ⟨_, heq⟩ | ⟨_, _, heq⟩ <;> rw [heq]
  · have hlen := s.pair_length j (s.flipBit s.fcur)
    rw [State.paint_eq]
    exact .paint 1 _ 1 h he hs hpos (s.count_fits hc (by omega)) (by omega)
  · exact .raise_at_pos s _ _
  · exact .raise_at_pos s _ _

/-- A token fetched from the stream: counted in SNIFF, painted in DECODE. -/
theorem EngineMove.token {s : State} {i : Instr} (hi : i.source = .stream) (h : s.phase ≠ .idle)
    (he : s.encoding = false) (hc : s.count < 5000) (hpos : s.pos < s.len)
    (hrun : ∀ x r, i = .run x r → s.pos + 2 ≤ s.len) : EngineMove s (effect i s) := by
  cases hs : s.sniffing with
  | true =>
    cases i with
    | sgl | dbl | dic => simp only [effect, hs, if_true]; exact .countToken h hpos (by omega)
    | run x r => simp only [effect, hs, if_true]; exact .countToken h (hrun x r rfl) (by omega)
    | decode | encode | sniff | badCommand => exact absurd hi (by simp [Instr.source])
  | false =>
    cases i with
    | sgl x =>
      have hrow : s.column + 1 ≤ 100 := by unfold State.column; omega
      simp only [effect, hs, Bool.false_eq_true, if_false]
      exact .paintToken h he hs hpos hc hrow
    | dbl => simp only [effect, hs, Bool.false_eq_true, if_false]; exact .paintInRow h he hs hpos hc
    | dic => simp only [effect, hs, Bool.false_eq_true, if_false]; exact .paintPair h he hs hpos hc
    | run x r => simp only [effect, hs, Bool.false_eq_true, if_false]; exact .paintInRow h he hs (hrun x r rfl) hc
    | decode | encode | sniff | badCommand => exact absurd hi (by simp [Instr.source])

theorem EngineMove.tokenEffect {s : State} (h : s.phase ≠ .idle) (he : s.encoding = false) :
    EngineMove s (tokenEffect s) := by
  rcases tokenEffect_cases s with ⟨_, heq⟩ | ⟨_, _, heq⟩ | ⟨_, _, heq⟩ | ⟨hc, hpos, i, _, _, hi, hrun, heq⟩ <;> rw [heq]
  · exact .leave h
  · exact .raise_at_pos s _ _
  · exact .raise_at_pos s _ _
  · exact .token hi h he hc hpos hrun

theorem EngineMove.complete (s : State) (r : Result) : EngineMove s (s.complete r) := .finish s.count r (.inl rfl)

theorem EngineMove.finishSniff (s : State) : EngineMove s s.finishSniff := by
  unfold State.finishSniff
  split
  · exact .raise_at_pos s _ _
  · exact .complete s _

/-- ENCODE's step in each phase. -/
theorem EngineMove.of_encoding {s : State} (he : s.encoding = true) : EngineMove s (engineEffect s) := by
  cases h : s.phase <;> simp only [engineEffect, h, he, if_true]
  case idle => exact .rest h
  case ending => unfold State.finishEncode; exact .finish 5000 _ (.inr ⟨he, rfl⟩)
  case ct => rw [State.ctWrite_eq]; exact .write _ _ _ _ s.flipL _ he (by simp [h]) (by decide)
  case dict => rw [State.dictWrite_eq]; exact .write _ _ _ _ s.flipL _ he (by simp [h]) (by decide)
  case flen => rw [State.flenWrite_eq]; exact .write _ _ s.pos _ _ _ he (by simp [h]) (by decide)
  case fbits => rw [State.fbitsWrite_eq]; exact .write _ _ _ _ s.flipL _ he (by simp [h]) (by decide)
  case pixels => rw [State.bodyWrite_eq]; exact .write _ _ _ _ s.flipL _ he (by simp [h]) (by decide)

/-- The step of a DECODE or SNIFF in each phase. -/
theorem EngineMove.of_not_encoding {s : State} (he : s.encoding = false) : EngineMove s (engineEffect s) := by
  cases h : s.phase <;> simp only [engineEffect, h, he, Bool.false_eq_true, if_false]
  case idle => exact .rest h
  case ct => exact .ctRead h
  case dict => exact .dictRead h
  case flen => exact .flenRead h
  case fbits => exact .fbitsRead h
  case pixels => exact .tokenEffect (by simp [h]) he
  case ending =>
    split
    · exact .finishSniff s
    · exact .complete s _

/-- Every engine step is one of the moves. -/
theorem engineEffect_move (s : State) : EngineMove s (engineEffect s) := by
  cases he : s.encoding with
  | true => exact .of_encoding he
  | false => exact .of_not_encoding he

/-! The moves of a step. -/

/-- The ways a step can change the state: the engine's, and those of the host's accesses. -/
inductive StepMove (s : State) : State → Prop
  /-- The host is silent. -/
  | engine {t : State} : s.hostQ = [] → EngineMove s t → StepMove s t
  /-- The host waits. -/
  | waited {t : State} : EngineMove s.nextEvent t → StepMove s t
  /-- The reset event (70_reset_and_hazards.md R260). -/
  | reset : StepMove s s.nextEvent.applyReset
  /-- A read (20_memory.md R67). -/
  | read (v : Word) (n : Nat) : StepMove s { s.nextEvent with replies := v :: s.replies, draws := n }
  /-- A write that has no effect (10_state.md R31, R49). -/
  | ignored : StepMove s s.nextEvent
  /-- A START that fails its check (60_exceptions.md R236, 42_pixel_encoder.md R182). -/
  | turnedAway (c : BitVec 3) (m k : Bool) (n : Nat) (e : Code) : s.busy = false → n ≤ 5000 →
      StepMove s (State.raise e .input 0 { s.nextEvent.start c m k with count := n })
  /-- A START that passes it (10_state.md R48). -/
  | started (c : BitVec 3) (m k : Bool) (p : EncodePlan) : s.busy = false →
      StepMove s { s.nextEvent.start c m k with plan := p, phase := .ct }
  /-- A write to CTRL without START (10_state.md R22). -/
  | setCtrl (c : BitVec 3) (m k : Bool) : StepMove s { s.nextEvent with ctrl := ctrlWord c m k }
  /-- A write to IN_LEN (R24). -/
  | setInLen (v : Word) : StepMove s { s.nextEvent with inLen := v }
  /-- A write to PAL_COUNT (R25). -/
  | setPalCount (v : Word) : StepMove s { s.nextEvent with palCount := (v.setWidth 7).setWidth 32 }
  /-- A write to the memory windows (20_memory.md R67). -/
  | bytes (first a : Nat) (bs : List Byte) : StepMove s (s.nextEvent.writeBytes first a bs)

/-- What the START checks of DECODE and SNIFF can do. -/
theorem State.checkLength_cases (s : State) :
    (s.params.inCap < s.len ∧ s.checkLength = s.raise .badLength .input 0) ∨
      (s.len ≤ s.params.inCap ∧ s.checkLength = { s with phase := .ct }) := by
  unfold State.checkLength
  split
  · exact .inl ⟨by assumption, rfl⟩
  · exact .inr ⟨by omega, rfl⟩

/-- The pixel VALIDATE names is one of the raster. -/
theorem State.badPixel_lt {s : State} {n : Nat} (h : s.badPixel = some n) : n < 5000 := by
  unfold State.badPixel at h
  dsimp only at h
  split at h
  · obtain rfl : 0 = n := by simpa using h
    omega
  · have hlt := (firstFrom_some h).2.1
    omega

/-- What VALIDATE can do. -/
theorem State.checkRaster_cases (s : State) :
    (∃ n, s.badPixel = some n ∧ s.checkRaster = { s with count := n }.raise .unsupportedRaster .input 0) ∨
      (s.badPixel = none ∧ s.checkRaster = { s with plan := s.makePlan, phase := .ct }) := by
  unfold State.checkRaster
  split
  · next n h => exact .inl ⟨n, h, rfl⟩
  · next h => exact .inr ⟨h, rfl⟩

theorem StepMove.checkLength {s : State} (h : s.busy = false) (c : BitVec 3) (m k : Bool) :
    StepMove s (s.nextEvent.start c m k).checkLength := by
  rcases (s.nextEvent.start c m k).checkLength_cases with ⟨_, he⟩ | ⟨_, he⟩ <;> rw [he]
  · exact .turnedAway c m k 0 _ h (by omega)
  · exact .started c m k s.plan h

theorem StepMove.checkRaster {s : State} (h : s.busy = false) (c : BitVec 3) (m k : Bool) :
    StepMove s (s.nextEvent.start c m k).checkRaster := by
  rcases (s.nextEvent.start c m k).checkRaster_cases with ⟨n, hn, he⟩ | ⟨_, he⟩ <;> rw [he]
  · exact .turnedAway c m k n _ h (State.badPixel_lt hn).le
  · exact .started c m k _ h

/-- A START is ignored, or takes its actions and goes on as its command does. -/
theorem StepMove.startCommand {s : State} {c : BitVec 3} {m k : Bool} {f : State → State}
    (hf : s.busy = false → StepMove s (f (s.nextEvent.start c m k))) : StepMove s (s.startCommand c m k f) := by
  rcases s.startCommand_cases c m k f with ⟨_, he⟩ | ⟨hb, he⟩ <;> rw [he]
  · exact .ignored
  · exact hf hb

theorem StepMove.command {s : State} {v : Word} {i : Instr} (hi : decodeCommand v = some i) :
    StepMove s (effect i s) := by
  rcases decodeCommand_cases hi with rfl | rfl | rfl | rfl
  · exact .startCommand fun hb => .checkLength hb _ _ _
  · exact .startCommand fun hb => .checkRaster hb _ _ _
  · exact .startCommand fun hb => .checkLength hb _ _ _
  · exact .startCommand fun hb => .turnedAway _ _ _ 0 _ hb (by omega)

theorem StepMove.writeRegister (s : State) (k : Nat) (v : Word) : StepMove s (s.nextEvent.writeRegister k v) := by
  rcases s.nextEvent.writeRegister_cases k v with he | ⟨_, _, he⟩ | ⟨_, _, he⟩ | ⟨_, _, he⟩ <;> rw [he]
  · exact .ignored
  · exact .setCtrl _ _ _
  · exact .setInLen v
  · exact .setPalCount v

theorem StepMove.hostWrite (s : State) (w : Width) (a v : Word) : StepMove s (s.nextEvent.hostWrite w a v) := by
  unfold State.hostWrite
  split
  · split
    · exact .writeRegister s _ v
    · exact .ignored
  · exact .bytes _ _ _

theorem stepEffect_move (s : State) : StepMove s (stepEffect s) := by
  rcases hq : s.hostQ with _ | ⟨e, q⟩
  · simp only [stepEffect, hq]
    exact .engine hq (engineEffect_move s)
  · cases e with
    | wait => simp only [stepEffect, hq]; exact .waited (engineEffect_move s.nextEvent)
    | reset => simp only [stepEffect, hq]; exact .reset
    | read w a =>
      obtain ⟨v, n, _, he⟩ := State.hostRead_eq w a s.nextEvent
      simp only [stepEffect, hq, he]
      exact .read v n
    | write w a v =>
      simp only [stepEffect, hq]
      cases hr : (HostEvent.write w a v).startRequest with
      | none => exact .hostWrite s w a v
      | some i =>
        obtain ⟨_, _, hi⟩ := HostEvent.startRequest_some hr
        exact .command hi

/-- Every step is one of the moves. -/
theorem step_move {s t : State} (h : step s = .next t) : StepMove s t := by
  rw [step_eq] at h
  cases h
  exact stepEffect_move s

/-- Every step of a machine whose host is silent is one of the engine's moves. -/
theorem step_engineMove {s t : State} (hq : s.hostQ = []) (h : step s = .next t) : EngineMove s t := by
  rw [step_eq, stepEffect_silent hq] at h
  cases h
  exact engineEffect_move s

end Sys2Proof.Machine
end

section
/-!
The invariants every step keeps: the canonical form of the memories (log 4), the reserved register bits (10_state.md
R31), and the ranges of the cursors with BUSY and the phase in agreement (R35 to R37, R41).
-/

namespace Sys2Proof.Machine

open Sys2Proof

/-! The canonical form. -/

theorem State.complete_memoriesCanonical {s : State} (r : Result) (h : s.memoriesCanonical) :
    (s.complete r).memoriesCanonical := by
  obtain ⟨hin, hout, hpal, hidx, hpix⟩ := h
  unfold State.complete
  split
  · exact ⟨hin, Memory.fill_wf (Memory.fill_wf hout _ _) _ _, hpal, hidx, Memory.fill_wf (Memory.fill_wf hpix _ _) _ _⟩
  · exact ⟨hin, Memory.fill_wf hout _ _, hpal, hidx, Memory.fill_wf hpix _ _⟩

theorem State.raise_memoriesCanonical {s : State} (e : Code) (c : Sec) (k : Nat) (h : s.memoriesCanonical) :
    (s.raise e c k).memoriesCanonical := by
  unfold State.raise
  split
  · obtain ⟨hin, hout, hpal, hidx, hpix⟩ := h
    exact State.complete_memoriesCanonical _ ⟨hin, hout, hpal, hidx, Memory.fill_wf hpix _ _⟩
  · exact State.complete_memoriesCanonical _ h

theorem State.putByte_memoriesCanonical {s : State} (w : Window) (o : Nat) (b : Byte) (h : s.memoriesCanonical) :
    (s.putByte w o b).memoriesCanonical := by
  obtain ⟨hin, hout, hpal, hidx, hpix⟩ := h
  cases w with
  | pal => exact ⟨hin, hout, Memory.write_wf hpal o b, hidx, hpix⟩
  | idx => exact ⟨hin, hout, hpal, Memory.write_wf hidx o b, hpix⟩
  | pix => exact ⟨hin, hout, hpal, hidx, Memory.write_wf hpix o b⟩
  | out => exact ⟨hin, Memory.write_wf hout o b, hpal, hidx, hpix⟩
  | inp => exact ⟨Memory.write_wf hin o b, hout, hpal, hidx, hpix⟩

theorem State.writeByte_memoriesCanonical {s : State} (first a : Nat) (b : Byte) (h : s.memoriesCanonical) :
    (s.writeByte first a b).memoriesCanonical := by
  rcases s.writeByte_cases first a b with ⟨_, he⟩ | ⟨w, o, _, ⟨_, he⟩ | ⟨_, _, he⟩ | ⟨_, _, he⟩ | ⟨_, _, he⟩⟩ <;> rw [he]
  · exact h
  · exact State.putByte_memoriesCanonical w o b h
  · exact h
  · exact h
  · exact State.putByte_memoriesCanonical w o b h

theorem State.writeBytes_memoriesCanonical {s : State} (first a : Nat) (bs : List Byte) (h : s.memoriesCanonical) :
    (s.writeBytes first a bs).memoriesCanonical := by
  induction bs generalizing s a with
  | nil => exact h
  | cons b bs ih => exact ih (a + 1) (State.writeByte_memoriesCanonical first a b h)

theorem EngineMove.keeps_memoriesCanonical {s t : State} (hm : EngineMove s t) (h : s.memoriesCanonical) :
    t.memoriesCanonical := by
  obtain ⟨hin, hout, hpal, hidx, hpix⟩ := id h
  cases hm with
  | rest | load | count | leave => exact h
  | write a bs => exact ⟨hin, Memory.writeBytes_wf hout a bs, hpal, hidx, hpix⟩
  | paint => exact ⟨hin, hout, hpal, hidx, Memory.writeBytes_wf hpix _ _⟩
  | abort => exact State.raise_memoriesCanonical _ _ _ h
  | finish => exact State.complete_memoriesCanonical _ h

theorem StepMove.keeps_memoriesCanonical {s t : State} (hm : StepMove s t) (h : s.memoriesCanonical) :
    t.memoriesCanonical := by
  cases hm with
  | engine _ he | waited he => exact he.keeps_memoriesCanonical h
  | reset => exact State.reset_memories_wf
  | turnedAway => exact State.raise_memoriesCanonical _ _ _ h
  | bytes first a bs => exact State.writeBytes_memoriesCanonical first a bs h
  | read | ignored | started | setCtrl | setInLen | setPalCount => exact h

/-- Settles O50, by the moves of a step. -/
theorem stepKeepsMemoriesCanonical : Obligations.StepKeepsMemoriesCanonical :=
  fun _ _ h hstep => (step_move hstep).keeps_memoriesCanonical h

/-! The reserved bits. -/

/-- Appending below is adding to a multiple. -/
theorem toNat_append_eq_add {m n : Nat} (x : BitVec m) (y : BitVec n) :
    (x ++ y).toNat = 2 ^ n * x.toNat + y.toNat := by
  rw [BitVec.toNat_append, ← Nat.shiftLeft_add_eq_or_of_lt y.isLt, Nat.shiftLeft_eq, Nat.mul_comm]

/-- CTRL's value is the sum of its fields (10_state.md R22). -/
theorem ctrlWord_toNat (c : BitVec 3) (m k : Bool) :
    (ctrlWord c m k).toNat = c.toNat + 8 * m.toNat + 16 * k.toNat := by
  simp only [ctrlWord, toNat_append_eq_add, BitVec.toNat_ofBool, BitVec.toNat_ofNat]
  omega

theorem ctrlWord_lt (c : BitVec 3) (m k : Bool) : (ctrlWord c m k).toNat < 32 := by
  have hc := c.isLt
  have hm := m.toNat_le
  have hk := k.toNat_le
  rw [ctrlWord_toNat]
  omega

theorem State.reset_reservedBitsZero : State.reset.reservedBitsZero := by decide

theorem busyStatus_reserved : busyStatus &&& statusReserved = 0#32 := by decide

theorem State.complete_reservedBitsZero {s : State} (r : Result) (hctrl : s.ctrl.toNat < 32)
    (hpal : s.palCount.toNat < 128) : (s.complete r).reservedBitsZero :=
  ⟨by simpa using hctrl, s.complete_status_reserved r, by simpa using hpal, s.complete_flipLen_lt r⟩

theorem State.raise_reservedBitsZero {s : State} (e : Code) (c : Sec) (k : Nat) (hctrl : s.ctrl.toNat < 32)
    (hpal : s.palCount.toNat < 128) : (s.raise e c k).reservedBitsZero := by
  unfold State.raise
  split <;> exact State.complete_reservedBitsZero _ hctrl hpal

theorem EngineMove.keeps_reservedBitsZero {s t : State} (hm : EngineMove s t) (h : s.reservedBitsZero) :
    t.reservedBitsZero := by
  obtain ⟨hctrl, _, hpal, _⟩ := id h
  cases hm with
  | rest | write | load | paint | count | leave => exact h
  | abort => exact State.raise_reservedBitsZero _ _ _ hctrl hpal
  | finish => exact State.complete_reservedBitsZero _ hctrl hpal

theorem StepMove.keeps_reservedBitsZero {s t : State} (hm : StepMove s t) (h : s.reservedBitsZero) :
    t.reservedBitsZero := by
  obtain ⟨hctrl, hstatus, hpal, hflip⟩ := id h
  cases hm with
  | engine _ he | waited he => exact he.keeps_reservedBitsZero h
  | reset => exact State.reset_reservedBitsZero
  | read | ignored | setInLen => exact h
  | turnedAway c m k => exact State.raise_reservedBitsZero _ _ _ (ctrlWord_lt c m k) hpal
  | started c m k => exact ⟨ctrlWord_lt c m k, busyStatus_reserved, hpal, by simp⟩
  | setCtrl c m k => exact ⟨ctrlWord_lt c m k, hstatus, hpal, hflip⟩
  | setPalCount v => exact ⟨hctrl, hstatus, by simp; omega, hflip⟩
  | bytes => simpa [State.reservedBitsZero] using h

/-- Settles O51, by the moves of a step. -/
theorem stepKeepsReservedBitsZero : Obligations.StepKeepsReservedBitsZero :=
  fun _ _ h hstep => (step_move hstep).keeps_reservedBitsZero h

/-! The cursors. -/

theorem State.reset_cursorsInRange : State.reset.cursorsInRange := by decide

theorem State.lengthSeen_idle {s : State} (h : s.phase = .idle) : s.lengthSeen = 0 := by simp [State.lengthSeen, h]

theorem State.complete_encoding (s : State) (r : Result) : (s.complete r).encoding = s.encoding := by
  simp [State.encoding]

theorem State.raise_encoding (s : State) (e : Code) (c : Sec) (k : Nat) : (s.raise e c k).encoding = s.encoding := by
  simp [State.encoding]

/-- A completed command has no section before it; its cursors stay. -/
theorem State.complete_cursorsInRange {s : State} (r : Result) (hlen : s.len < 2 ^ 32) (hcount : s.count ≤ 5000)
    (hcur : s.encoding = false → s.pos ≤ s.len ∧ 2 * s.fcur ≤ s.count) : (s.complete r).cursorsInRange := by
  refine ⟨by simpa using hlen, by simpa using hcount, fun he => ?_⟩
  obtain ⟨hpos, hfcur⟩ := hcur (s.complete_encoding r ▸ he)
  rw [State.lengthSeen_idle (s.complete_phase r)]
  exact ⟨by simpa using hpos, Nat.zero_le _, by simpa using hfcur⟩

theorem State.raise_cursorsInRange {s : State} (e : Code) (c : Sec) {k : Nat} (hlen : s.len < 2 ^ 32)
    (hcount : s.count ≤ 5000) (hcur : s.encoding = false → k ≤ s.len ∧ 2 * s.fcur ≤ s.count) :
    (s.raise e c k).cursorsInRange := by
  unfold State.raise
  split <;> exact State.complete_cursorsInRange _ hlen hcount hcur

theorem EngineMove.keeps_cursorsInRange {s t : State} (hm : EngineMove s t) (h : s.cursorsInRange) :
    t.cursorsInRange := by
  obtain ⟨hlen, hcount, hcur⟩ := id h
  cases hm with
  | rest => exact h
  | write _ _ _ _ _ _ he => exact ⟨hlen, hcount, fun hne => absurd (he.symm.trans hne) (by decide)⟩
  | load ct dl dr l n ph _ _ hseen =>
    refine ⟨hlen, hcount, fun hne => ?_⟩
    obtain ⟨_, _, hfcur⟩ := hcur hne
    exact ⟨hseen, hseen, hfcur⟩
  | paint size ps d _ _ _ hpos hn hd =>
    refine ⟨hlen, hn, fun hne => ?_⟩
    obtain ⟨_, hseen, hfcur⟩ := hcur hne
    exact ⟨hpos, hseen, by dsimp only; omega⟩
  | count size n d _ hpos hn hd =>
    refine ⟨hlen, hn, fun hne => ?_⟩
    obtain ⟨_, hseen, hfcur⟩ := hcur hne
    exact ⟨hpos, hseen, by dsimp only; omega⟩
  | leave =>
    refine ⟨hlen, hcount, fun hne => ?_⟩
    obtain ⟨hpos, _, hfcur⟩ := hcur hne
    exact ⟨hpos, Nat.zero_le _, hfcur⟩
  | abort l e c k hk =>
    refine State.raise_cursorsInRange e c hlen hcount fun hne => ?_
    obtain ⟨hpos, hseen, hfcur⟩ := hcur hne
    exact ⟨hk.trans (max_le hpos hseen), hfcur⟩
  | finish n r hn =>
    rcases hn with rfl | ⟨he, rfl⟩
    · refine State.complete_cursorsInRange r hlen hcount fun hne => ?_
      obtain ⟨hpos, _, hfcur⟩ := hcur hne
      exact ⟨hpos, hfcur⟩
    · exact State.complete_cursorsInRange r hlen (le_refl 5000) fun hne => absurd (he.symm.trans hne) (by decide)

theorem StepMove.keeps_cursorsInRange {s t : State} (hm : StepMove s t) (h : s.cursorsInRange) : t.cursorsInRange := by
  cases hm with
  | engine _ he | waited he => exact he.keeps_cursorsInRange h
  | reset => exact State.reset_cursorsInRange
  | turnedAway c m k n e _ hn =>
    exact State.raise_cursorsInRange e .input s.inLen.isLt hn fun _ => ⟨Nat.zero_le _, Nat.zero_le _⟩
  | started => exact ⟨s.inLen.isLt, Nat.zero_le _, fun _ => ⟨Nat.zero_le _, Nat.zero_le _, le_refl 0⟩⟩
  | read | ignored | setCtrl | setInLen | setPalCount => exact h
  | bytes => simpa [State.cursorsInRange, State.encoding, State.lengthSeen] using h

/-! BUSY and the phase. -/

theorem State.reset_busyMatchesPhase : State.reset.busyMatchesPhase := by decide

theorem busyStatus_busy : busyStatus.getLsbD 0 = true := by decide

theorem State.busyMatchesPhase_idle {s : State} (hb : s.busy = false) (hp : s.phase = .idle) : s.busyMatchesPhase := by
  simp [State.busyMatchesPhase, hb, hp]

theorem State.complete_busyMatchesPhase (s : State) (r : Result) : (s.complete r).busyMatchesPhase :=
  State.busyMatchesPhase_idle (s.complete_busy r) (s.complete_phase r)

theorem State.raise_busyMatchesPhase (s : State) (e : Code) (c : Sec) (k : Nat) : (s.raise e c k).busyMatchesPhase :=
  State.busyMatchesPhase_idle (s.raise_busy e c k) (s.raise_phase e c k)

/-- A running command that goes on stays BUSY. -/
theorem State.busyMatchesPhase_running {s t : State} (h : s.busyMatchesPhase) (hs : s.phase ≠ .idle)
    (hstatus : t.status = s.status) (ht : t.phase ≠ .idle) : t.busyMatchesPhase := by
  obtain ⟨hiff, hbusy⟩ := h
  have hb : t.busy = s.busy := congrArg (BitVec.getLsbD · 0) hstatus
  have hs' := hiff.2 hs
  exact ⟨iff_of_true (hb.trans hs') ht, fun _ => hstatus.trans (hbusy hs')⟩

theorem EngineMove.keeps_busyMatchesPhase {s t : State} (hm : EngineMove s t) (h : s.busyMatchesPhase) :
    t.busyMatchesPhase := by
  cases hm with
  | rest => exact h
  | write _ _ _ _ _ _ _ hs ht => exact State.busyMatchesPhase_running h hs rfl ht
  | load _ _ _ _ _ _ hs ht => exact State.busyMatchesPhase_running h hs rfl ht
  | paint _ _ _ hs | count _ _ _ hs => exact State.busyMatchesPhase_running h hs rfl hs
  | leave hs => exact State.busyMatchesPhase_running h hs rfl (by simp)
  | abort => exact State.raise_busyMatchesPhase _ _ _ _
  | finish => exact State.complete_busyMatchesPhase _ _

theorem StepMove.keeps_busyMatchesPhase {s t : State} (hm : StepMove s t) (h : s.busyMatchesPhase) :
    t.busyMatchesPhase := by
  cases hm with
  | engine _ he | waited he => exact he.keeps_busyMatchesPhase h
  | reset => exact State.reset_busyMatchesPhase
  | turnedAway => exact State.raise_busyMatchesPhase _ _ _ _
  | started => exact ⟨iff_of_true busyStatus_busy (by simp), fun _ => rfl⟩
  | read | ignored | setCtrl | setInLen | setPalCount => exact h
  | bytes => simpa [State.busyMatchesPhase, State.busy] using h

/-- Settles O52, by the moves of a step. -/
theorem stepKeepsCursorsInRange : Obligations.StepKeepsCursorsInRange :=
  fun _ _ hc hb hstep =>
    ⟨(step_move hstep).keeps_cursorsInRange hc, (step_move hstep).keeps_busyMatchesPhase hb⟩

end Sys2Proof.Machine
end

section
/-!
What the engine and a START leave unchanged, what a START sets up (10_state.md R48), and the layout of STATUS (R23).
-/

namespace Sys2Proof.Machine

open Sys2Proof

/-! The engine's frame. -/

/-- No engine step changes an input, a register the host writes, or a latch (10_state.md R43, 20_memory.md R75). -/
theorem EngineMove.frame {s t : State} (hm : EngineMove s t) :
    t.inMem = s.inMem ∧ t.palMem = s.palMem ∧ t.idxMem = s.idxMem ∧ t.inLen = s.inLen ∧ t.palCount = s.palCount ∧
      t.ctrl = s.ctrl ∧ t.cmd = s.cmd ∧ t.mode = s.mode ∧ t.strict = s.strict ∧ t.len = s.len ∧ t.params = s.params ∧
      t.replies = s.replies := by
  cases hm with
  | abort | finish => simp
  | rest | write | load | paint | count | leave =>
    exact ⟨rfl, rfl, rfl, rfl, rfl, rfl, rfl, rfl, rfl, rfl, rfl, rfl⟩

theorem State.complete_outMem {s : State} (r : Result) (h : s.undisturbed) : (s.complete r).outMem = s.outMem := by
  rw [State.complete_undisturbed s r h]

theorem State.complete_pixMem {s : State} (r : Result) (h : s.undisturbed) : (s.complete r).pixMem = s.pixMem := by
  rw [State.complete_undisturbed s r h]

/-- With no hazard pending DECODE and SNIFF leave OUT alone (41_pixel_decoder.md R141). -/
theorem EngineMove.outMem {s t : State} (hm : EngineMove s t) (h : s.undisturbed) (he : s.encoding = false) :
    t.outMem = s.outMem := by
  cases hm with
  | write _ _ _ _ _ _ hw => exact absurd (hw.symm.trans he) (by decide)
  | abort => exact State.raise_outMem _ _ _ _ h
  | finish n r => exact State.complete_outMem (s := { s with count := n }) r h
  | rest | load | paint | count | leave => rfl

theorem State.not_decoding {s : State} (h : s.encoding = true ∨ s.sniffing = true) : s.cmd ≠ cmdDecode := by
  intro hc
  simp [State.encoding, State.sniffing, hc, cmdDecode, cmdEncode, cmdSniff] at h

/-- With no hazard pending ENCODE and SNIFF leave PIX alone (42_pixel_encoder.md R181, 43_format_sniffer.md R214). -/
theorem EngineMove.pixMem {s t : State} (hm : EngineMove s t) (h : s.undisturbed)
    (hc : s.encoding = true ∨ s.sniffing = true) : t.pixMem = s.pixMem := by
  cases hm with
  | paint _ _ _ _ he hs => simp [he, hs] at hc
  | abort l => exact State.raise_pixMem { s with flipL := l } _ _ _ h (State.not_decoding hc)
  | finish n r => exact State.complete_pixMem (s := { s with count := n }) r h
  | rest | write | load | count | leave => rfl

/-- Settles O56, by the moves of the engine. -/
theorem engineLeavesInputsAlone : Obligations.EngineLeavesInputsAlone := by
  intro s t hq hstep
  have hm := step_engineMove hq hstep
  obtain ⟨hin, hpal, hidx, hinLen, hpalCount, hctrl, hcmd, hmode, hstrict, hlen, hparams, hreplies⟩ := hm.frame
  exact ⟨hin, hpal, hidx, hinLen, hpalCount, hctrl, hcmd, hmode, hstrict, hlen, hparams, hreplies, hm.outMem, hm.pixMem⟩

/-! START. -/

/-- The state a START that passes its checks leads to. -/
def State.running (s : State) (c : BitVec 3) (m k : Bool) (p : EncodePlan) : State :=
  { s.nextEvent.start c m k with plan := p, phase := .ct }

theorem started_running (s : State) (c : BitVec 3) (m k : Bool) (p : EncodePlan) :
    Started s (s.running c m k p) c m k :=
  ⟨ctrlWord_toNat c m k, rfl, rfl, rfl, rfl, rfl, rfl, rfl, rfl, rfl, rfl, rfl, rfl, rfl, rfl⟩

theorem startFrame_running (s : State) (c : BitVec 3) (m k : Bool) (p : EncodePlan) :
    StartFrame s (s.running c m k p) :=
  ⟨rfl, rfl, rfl, rfl, rfl, rfl, rfl, rfl, rfl, rfl, rfl, rfl, rfl, rfl, rfl, rfl, rfl, rfl⟩

theorem startCommand_checkLength {s : State} (hb : s.busy = false) (hl : s.inLen.toNat ≤ s.params.inCap)
    (c : BitVec 3) (m k : Bool) : s.startCommand c m k State.checkLength = s.running c m k s.plan := by
  rw [State.startCommand_idle hb]
  rcases (s.nextEvent.start c m k).checkLength_cases with ⟨hlt, _⟩ | ⟨_, he⟩
  · exact absurd hl (Nat.not_le.2 hlt)
  · exact he

/-- Settles O15. -/
theorem decodeStarts : Obligations.DecodeStarts := fun s m k hb hl =>
  ⟨_, (exec_eq _ s).trans (congrArg _ (startCommand_checkLength hb hl cmdDecode m k)), started_running ..,
    startFrame_running .., rfl, rfl⟩

/-- Settles O16. -/
theorem sniffStarts : Obligations.SniffStarts := fun s m k hb hl =>
  ⟨_, (exec_eq _ s).trans (congrArg _ (startCommand_checkLength hb hl cmdSniff m k)), started_running ..,
    startFrame_running .., rfl, rfl⟩

/-- A raster that ENCODE accepts passes VALIDATE (42_pixel_encoder.md R182). -/
theorem RasterOk.badPixel {s : State} (h : RasterOk s) : s.badPixel = none := by
  obtain ⟨hpos, hle, hidx⟩ := h
  have hcount : ¬ (s.palCount.toNat = 0 ∨ 64 < s.palCount.toNat) := by omega
  simp only [State.badPixel, if_neg hcount, firstFrom_none, decide_eq_false_iff_not, Nat.not_le]
  exact fun l _ hl => hidx l (by omega)

theorem startCommand_checkRaster {s : State} (hb : s.busy = false) (hr : RasterOk s) (c : BitVec 3) (m k : Bool) :
    s.startCommand c m k State.checkRaster = s.running c m k (s.nextEvent.start c m k).makePlan := by
  rw [State.startCommand_idle hb]
  have hnone : (s.nextEvent.start c m k).badPixel = none := RasterOk.badPixel hr
  rcases (s.nextEvent.start c m k).checkRaster_cases with ⟨n, hn, _⟩ | ⟨_, he⟩
  · exact absurd (hnone.symm.trans hn) (by simp)
  · exact he

theorem State.gridRow_eq (s : State) (y : Nat) :
    s.gridRow y = (List.range 100).map fun c => (s.idxMem.read (100 * y + c)).toNat := by
  rw [State.gridRow, List.range'_eq_map_range, List.map_map]
  rfl

theorem State.walk_eq (s : State) (allow : Colour → Colour → Bool) : s.walk allow = imageWalk s allow := by
  simp only [State.walk, imageWalk, State.gridRow_eq]
  rfl

theorem State.makePlan_greedy {s : State} (h : s.mode = true) : s.makePlan = s.greedyPlan := by
  simp [State.makePlan, h]

theorem State.makePlan_degenerate {s : State} (h : s.mode = false) : s.makePlan = s.degeneratePlan := by
  simp [State.makePlan, h]

/-- SEL comes from the walk that allows every pair, flip bits and token bytes from the walk that allows SEL (R190, R191). -/
theorem State.greedyPlan_spec (s : State) :
    s.greedyPlan.sel = selectKeys (walkKeys (imageWalk s fun _ _ => true)) ∧
      s.greedyPlan.flips = walkFlips (imageWalk s fun a b => decide (pairKey a b ∈ s.greedyPlan.sel)) ∧
      s.greedyPlan.body =
        (imageWalk s fun a b => decide (pairKey a b ∈ s.greedyPlan.sel)).flatMap (walkBytes s.greedyPlan.sel) := by
  simp only [State.greedyPlan, State.greedyKeys, State.walk_eq, and_self]

/-- The SGL of an index byte below 64 is that byte (30_encoding.md R88). -/
theorem encode_sgl_byte {b : Byte} (h : b.toNat < 64) : encode (.sgl (BitVec.ofNat 6 b.toNat)) = [b] := by
  simp only [encode, List.cons.injEq, and_true]
  apply BitVec.eq_of_toNat_eq
  simp only [toNat_append_eq_add, BitVec.toNat_ofNat]
  omega

/-- In ENC_MODE 0 the token bytes are the index bytes (42_pixel_encoder.md R184). -/
theorem State.degeneratePlan_body {s : State} (h : RasterOk s) :
    s.degeneratePlan.body = (List.range 5000).map fun k => s.idxMem.read k := by
  obtain ⟨_, hle, hidx⟩ := h
  simp only [State.degeneratePlan, State.index, List.map_eq_flatMap]
  refine List.flatMap_congr fun k hk => encode_sgl_byte ?_
  exact (hidx k (List.mem_range.1 hk)).trans_le hle

/-- The plan rests on the inputs and the latched mode only, which the plan and the phase leave as they are. -/
theorem State.running_makePlan (s : State) (c : BitVec 3) (m k : Bool) (p : EncodePlan) :
    (s.running c m k p).makePlan = (s.nextEvent.start c m k).makePlan := rfl

/-- Settles O17. -/
theorem encodeStarts : Obligations.EncodeStarts := by
  intro s m k hb hr
  have hexec := (exec_eq (.encode m k) s).trans (congrArg _ (startCommand_checkRaster hb hr cmdEncode m k))
  refine ⟨_, hexec, started_running .., startFrame_running .., rfl, (State.running_makePlan ..).symm, ?_, ?_⟩
  · rintro rfl
    have hplan := State.makePlan_greedy (s := s.nextEvent.start cmdEncode true k) rfl
    simp only [State.running, hplan]
    exact State.greedyPlan_spec _
  · rintro rfl
    have hplan := State.makePlan_degenerate (s := s.nextEvent.start cmdEncode false k) rfl
    simp only [State.running, hplan]
    exact ⟨rfl, rfl, State.degeneratePlan_body hr⟩

/-! STATUS. -/

theorem statusWord_toNat (b d e a t : Bool) (c : BitVec 4) (x : BitVec 3) :
    (statusWord b d e a t c x).toNat =
      b.toNat + 2 * d.toNat + 4 * e.toNat + 8 * a.toNat + 16 * t.toNat + 256 * c.toNat + 4096 * x.toNat := by
  simp only [statusWord, toNat_append_eq_add, BitVec.toNat_ofBool, BitVec.toNat_ofNat]
  omega

/-- Settles O49: the value is the sum of the fields, and each accessor reads its own. -/
theorem statusLayout : Obligations.StatusLayout := by
  intro b d e a t c x
  refine ⟨statusWord_toNat b d e a t c x, fun s hs => ?_⟩
  simp only [State.busy, State.done, State.err, State.accept, State.trailing, State.code, State.sectionCode, hs]
  exact ⟨statusWord_busy .., statusWord_done .., statusWord_err .., statusWord_accept .., statusWord_trailing ..,
    statusWord_code .., statusWord_section ..⟩

end Sys2Proof.Machine
end

section
/-!
The register window (20_memory.md R67): what a host access to it answers, stores or leaves alone, while idle and while
BUSY.
-/

namespace Sys2Proof.Machine

open Sys2Proof

/-! One host access. -/

theorem inRegisters_iff (a : Word) : inRegisters a = true ↔ a.toNat < 0x40 := by
  simp [inRegisters, BitVec.lt_def]

theorem registerAccess_iff (w : Width) (a : Word) : registerAccess w a = true ↔ w = .w32 ∧ a.toNat % 4 = 0 := by
  simp [registerAccess]

theorem State.nextEvent_of_hostQ {s : State} {e : HostEvent} {q : List HostEvent} (h : s.hostQ = e :: q) :
    s.nextEvent = { s with hostQ := q } := by
  simp [State.nextEvent, h]

theorem step_read {s : State} {w : Width} {a : Word} {q : List HostEvent} (h : s.hostQ = .read w a :: q) :
    step s = .next (State.hostRead w a { s with hostQ := q }) := by
  rw [← State.nextEvent_of_hostQ h]
  simp only [step, h]

theorem step_write {s : State} {w : Width} {a v : Word} {q : List HostEvent} (h : s.hostQ = .write w a v :: q)
    (hn : (HostEvent.write w a v).startRequest = none) : step s = .next (State.hostWrite w a v { s with hostQ := q }) := by
  rw [← State.nextEvent_of_hostQ h]
  simp only [step, h, hn]

theorem step_start {s : State} {w : Width} {a v : Word} {q : List HostEvent} {i : Instr}
    (h : s.hostQ = .write w a v :: q) (hi : (HostEvent.write w a v).startRequest = some i) :
    step s = .next (effect i s) := by
  simp only [step, h, hi, exec_eq]

/-- A write that is no START: not 32 bits wide, not to CTRL, or with bit 31 = 0 (10_state.md R48). -/
theorem startRequest_none {w : Width} {a v : Word} (h : w ≠ .w32 ∨ a ≠ 0#32 ∨ v.getLsbD 31 = false) :
    (HostEvent.write w a v).startRequest = none := by
  rw [Option.eq_none_iff_forall_ne_some]
  intro i hi
  obtain ⟨_, he, hd⟩ := HostEvent.startRequest_some hi
  obtain ⟨rfl, rfl, rfl⟩ := HostEvent.write.inj he
  rcases h with h | h | h
  · exact h rfl
  · exact h rfl
  · have hstart : ctrlStart _ = false := h
    simp [decodeCommand, hstart] at hd

/-! Reads of REG. -/

/-- R21: the registers at the offsets 0x00 to 0x20; the other offsets are reserved (R31). -/
theorem State.readRegister_idle {s : State} (h : s.busy = false) {k : Nat} (hk : k < 0x40) (ha : k % 4 = 0) :
    s.readRegister k =
      ([s.ctrl, s.status, s.inLen, s.palCount, s.outLen, s.byteCursor, s.pixCount, s.flipCursor, s.flipLen].getD
        (k / 4) 0#32, s) := by
  obtain ⟨j, rfl⟩ : ∃ j, k = 4 * j := ⟨k / 4, by omega⟩
  have hj : j < 16 := by omega
  interval_cases j <;> simp [State.readRegister, State.resultRegister_idle h]

theorem State.hostRead_register_idle {s : State} (h : s.busy = false) (w : Width) {a : Word} (ha : a.toNat < 0x40) :
    s.hostRead w a = { s with replies :=
      (if w = .w32 ∧ a.toNat % 4 = 0 then
        [s.ctrl, s.status, s.inLen, s.palCount, s.outLen, s.byteCursor, s.pixCount, s.flipCursor, s.flipLen].getD
          (a.toNat / 4) 0#32
      else 0#32) :: s.replies } := by
  simp only [State.hostRead, State.readPort, inRegisters_iff, if_pos ha, registerAccess_iff]
  split
  · next hr => rw [State.readRegister_idle h ha hr.2]
  · rfl

/-- Settles O42. -/
theorem idleRegisterReads : Obligations.IdleRegisterReads := fun s w _ q hb ha hq =>
  (step_read hq).trans (congrArg _ (State.hostRead_register_idle (s := { s with hostQ := q }) hb w ha))

/-! Writes to REG. -/

theorem State.hostWrite_register {w : Width} {a : Word} (ha : a.toNat < 0x40) (v : Word) (s : State) :
    s.hostWrite w a v = if w = .w32 ∧ a.toNat % 4 = 0 then s.writeRegister a.toNat v else s := by
  simp only [State.hostWrite, inRegisters_iff, if_pos ha, registerAccess_iff]

theorem State.writeRegister_busy {s : State} (h : s.busy = true) (k : Nat) (v : Word) : s.writeRegister k v = s := by
  simp [State.writeRegister, h]

theorem State.hostWrite_register_busy {s : State} (h : s.busy = true) (w : Width) {a : Word} (ha : a.toNat < 0x40)
    (v : Word) : s.hostWrite w a v = s := by
  rw [State.hostWrite_register ha, State.writeRegister_busy h, ite_self]

/-- Only CTRL, IN_LEN and PAL_COUNT store what is written (10_state.md R21, R31). -/
theorem State.writeRegister_other (s : State) {k : Nat} (v : Word) (h0 : k ≠ 0x00) (h8 : k ≠ 0x08) (hc : k ≠ 0x0C) :
    s.writeRegister k v = s := by
  rcases s.writeRegister_cases k v with h | ⟨_, h, _⟩ | ⟨_, h, _⟩ | ⟨_, h, _⟩
  · exact h
  · exact absurd h h0
  · exact absurd h h8
  · exact absurd h hc

/-- While BUSY a START changes nothing but that the access is taken (R49). -/
theorem effect_busy {s : State} (h : s.busy = true) {v : Word} {i : Instr} (hi : decodeCommand v = some i) :
    effect i s = s.nextEvent := by
  rcases decodeCommand_cases hi with rfl | rfl | rfl | rfl <;> exact State.startCommand_busy h _ _ _ _

/-- Settles O20: a START and any other write to REG are both ignored. -/
theorem busyIgnoresRegisterWrites : Obligations.BusyIgnoresRegisterWrites := by
  intro s w a v q hb hq ha
  cases hr : (HostEvent.write w a v).startRequest with
  | some i =>
    obtain ⟨_, _, hi⟩ := HostEvent.startRequest_some hr
    rw [step_start hq hr, effect_busy hb hi, State.nextEvent_of_hostQ hq]
  | none =>
    exact (step_write hq hr).trans (congrArg _ (State.hostWrite_register_busy (s := { s with hostQ := q }) hb w ha v))

/-- The stored fields of CTRL are bits 4:0 of the value written (R22). -/
theorem ctrlWord_fields (v : Word) : ctrlWord (ctrlCmd v) (ctrlMode v) (ctrlStrict v) = v &&& 0x1F#32 := by
  apply BitVec.eq_of_toNat_eq
  have hmask : v.toNat &&& 31 = v.toNat % 32 := Nat.and_two_pow_sub_one_eq_mod v.toNat 5
  have hmode : (ctrlMode v).toNat = v.toNat / 2 ^ 3 % 2 := Nat.toNat_testBit v.toNat 3
  have hstrict : (ctrlStrict v).toNat = v.toNat / 2 ^ 4 % 2 := Nat.toNat_testBit v.toNat 4
  have hcmd : (ctrlCmd v).toNat = v.toNat % 8 := by simp [ctrlCmd]
  rw [ctrlWord_toNat, BitVec.toNat_and, hcmd, hmode, hstrict, show (0x1F#32).toNat = 31 from rfl, hmask]
  omega

/-- PAL_COUNT stores bits 6:0 of the value written (R25). -/
theorem setWidth_seven (v : Word) : (v.setWidth 7).setWidth 32 = v &&& 0x7F#32 := by
  apply BitVec.eq_of_toNat_eq
  have hmask : v.toNat &&& 127 = v.toNat % 128 := Nat.and_two_pow_sub_one_eq_mod v.toNat 7
  simp [hmask]
  omega

theorem State.hostWrite_ctrl {s : State} (h : s.busy = false) (v : Word) :
    s.hostWrite .w32 0#32 v = { s with ctrl := v &&& 0x1F#32 } := by
  rw [State.hostWrite_register (by decide), ← ctrlWord_fields]
  simp [State.writeRegister, h]

theorem State.hostWrite_inLen {s : State} (h : s.busy = false) (v : Word) :
    s.hostWrite .w32 0x08#32 v = { s with inLen := v } := by
  rw [State.hostWrite_register (by decide)]
  simp [State.writeRegister, h]

theorem State.hostWrite_palCount {s : State} (h : s.busy = false) (v : Word) :
    s.hostWrite .w32 0x0C#32 v = { s with palCount := v &&& 0x7F#32 } := by
  rw [State.hostWrite_register (by decide), ← setWidth_seven]
  simp [State.writeRegister, h]

/-- Every other write to REG is ignored (10_state.md R31, 20_memory.md R67). -/
theorem State.hostWrite_ignored (s : State) {w : Width} {a : Word} (ha : a.toNat < 0x40) (v : Word)
    (h : w ≠ .w32 ∨ a ≠ 0#32 ∧ a ≠ 0x08#32 ∧ a ≠ 0x0C#32) : s.hostWrite w a v = s := by
  rw [State.hostWrite_register ha]
  rcases h with hw | ⟨h0, h8, hc⟩
  · rw [if_neg fun hr => hw hr.1]
  · rw [s.writeRegister_other v (by bv_omega) (by bv_omega) (by bv_omega), ite_self]

/-- Settles O43: the three registers that store, and every other write to REG. -/
theorem idleRegisterWrites : Obligations.IdleRegisterWrites := by
  intro s w a v q hb ha hq
  have hstep (hn : w ≠ .w32 ∨ a ≠ 0#32 ∨ v.getLsbD 31 = false) := step_write hq (startRequest_none hn)
  have hidle : State.busy { s with hostQ := q } = false := hb
  refine ⟨?_, ?_, ?_, fun h => ?_⟩
  · rintro rfl rfl hv
    rw [hstep (.inr (.inr hv)), State.hostWrite_ctrl hidle]
  · rintro rfl rfl
    rw [hstep (.inr (.inl (by decide))), State.hostWrite_inLen hidle]
  · rintro rfl rfl
    rw [hstep (.inr (.inl (by decide))), State.hostWrite_palCount hidle]
  · have hn : w ≠ .w32 ∨ a ≠ 0#32 ∨ v.getLsbD 31 = false := h.imp_right fun ⟨h0, _⟩ => .inl h0
    rw [hstep hn, State.hostWrite_ignored _ ha v h]

end Sys2Proof.Machine
end

section
/-!
The memories stay inside their windows (20_memory.md R66): what ENCODE plans fits OUT (42_pixel_encoder.md R193), and no
step of the engine or of the host stores or notes a byte outside a window.
-/

namespace Sys2Proof.Machine

open Sys2Proof

/-! The size of a plan. -/

/-- A token of the walk takes no more bytes and flip bits than pixels, so a row takes no more than it has indices. -/
theorem walkRow_size (pc : Nat → Colour) (allow : Colour → Colour → Bool) (sel : List (Colour × Colour)) (fuel : Nat)
    (row : List Nat) :
    ((walkRow pc allow fuel row).flatMap (walkBytes sel)).length + (walkFlips (walkRow pc allow fuel row)).length ≤
      row.length := by
  induction fuel generalizing row with
  | zero => simp [walkRow, walkFlips]
  | succ fuel ih =>
    match row with
    | [] => simp [walkRow, walkFlips]
    | p :: rest =>
      have hrun := (leading_run p rest).2
      simp only [walkRow]
      split
      · have := ih (rest.drop (leading p rest + 1 - 1))
        simp [walkFlips, walkBytes, encode] at this ⊢
        omega
      · split
        · have := ih (rest.drop 1)
          simp [walkFlips, walkBytes, encode] at this ⊢
          omega
        · match rest with
          | [] => simp [walkFlips, walkBytes, encode]
          | q :: rest' =>
            dsimp only
            split
            · have := ih rest'
              simp [walkFlips, walkBytes, encode] at this ⊢
              omega
            · have := ih (q :: rest')
              simp [walkFlips, walkBytes, encode] at this ⊢
              omega

/-- The first `n` rows of the image take no more bytes and flip bits than they have pixels. -/
theorem State.rows_size (s : State) (allow : Colour → Colour → Bool) (sel : List (Colour × Colour)) (n : Nat) :
    (((List.range n).flatMap fun y => walkRow s.palColour allow 100 (s.gridRow y)).flatMap (walkBytes sel)).length +
      (walkFlips ((List.range n).flatMap fun y => walkRow s.palColour allow 100 (s.gridRow y))).length ≤ 100 * n := by
  induction n with
  | zero => simp [walkFlips]
  | succ n ih =>
    have hrow := walkRow_size s.palColour allow sel 100 (s.gridRow n)
    rw [gridRow_length] at hrow
    simp only [List.range_succ, List.flatMap_append, List.flatMap_singleton, walkFlips_append, List.length_append]
    omega

theorem State.greedyPlan_size (s : State) : s.greedyPlan.body.length + s.greedyPlan.flips.length ≤ 5000 :=
  s.rows_size (fun a b => decide (pairKey a b ∈ s.greedyKeys)) s.greedyKeys 50

theorem State.degeneratePlan_size (s : State) : s.degeneratePlan.body.length = 5000 := by
  simp only [State.degeneratePlan, encode, ← List.map_eq_flatMap, List.length_map, List.length_range]

/-- The flip bytes and the token bytes of either mode take at most 5000 bytes (42_pixel_encoder.md R193). -/
theorem State.makePlan_fits (s : State) : flipByteCount s.makePlan.flips + s.makePlan.body.length ≤ 5000 := by
  cases h : s.mode with
  | true =>
    have := s.greedyPlan_size
    rw [State.makePlan_greedy h, flipByteCount]
    omega
  | false =>
    rw [State.makePlan_degenerate h, s.degeneratePlan_size]
    simp [State.degeneratePlan, flipByteCount]

/-! The sizes of the sections. -/

theorem State.tableBytes_length (s : State) : s.tableBytes.length = 128 := halves_length _ 64

theorem dictBytes_length (sel : List (Colour × Colour)) : (dictBytes sel).length = 256 := by
  simp [dictBytes, bytesOfHalf, List.length_flatMap]

/-! Memories and notes inside the windows. -/

/-- No byte stored, and no byte noted for its completion (log 9), lies outside its window. -/
abbrev State.storesInWindows (s : State) : Prop :=
  s.memoriesInWindows ∧ (∀ o ∈ s.dirtyPix, o < pixBytes) ∧ ∀ o ∈ s.dirtyOut, o < s.params.outCap

theorem State.applyReset_storesInWindows (s : State) : s.applyReset.storesInWindows := by
  simp [State.storesInWindows, State.memoriesInWindows, Memory.within, State.reset]

theorem State.complete_storesInWindows {s : State} (r : Result) (h : s.storesInWindows) :
    (s.complete r).storesInWindows := by
  obtain ⟨⟨hin, hout, hpal, hidx, hpix⟩, hdp, hdo⟩ := h
  have hnone (n : Nat) : ∀ o ∈ ([] : List Nat), o < n := by simp
  unfold State.complete
  split
  · exact ⟨⟨hin, Memory.fill_within (Memory.fill_within hout _ (by simp)) _ hdo, hpal, hidx,
      Memory.fill_within (Memory.fill_within hpix _ (by simp)) _ hdp⟩, hnone _, hnone _⟩
  · exact ⟨⟨hin, Memory.fill_within hout _ hdo, hpal, hidx, Memory.fill_within hpix _ hdp⟩, hnone _, hnone _⟩

theorem State.raise_storesInWindows {s : State} (e : Code) (c : Sec) (k : Nat) (h : s.storesInWindows) :
    (s.raise e c k).storesInWindows := by
  unfold State.raise
  split
  · obtain ⟨⟨hin, hout, hpal, hidx, hpix⟩, hdp, hdo⟩ := h
    have hloose : ∀ o ∈ List.range' (2 * s.count) (pixBytes - 2 * s.count), o < pixBytes := by
      simp [List.mem_range'_1]; omega
    exact State.complete_storesInWindows _ ⟨⟨hin, hout, hpal, hidx, Memory.fill_within hpix _ hloose⟩, hdp, hdo⟩
  · exact State.complete_storesInWindows _ h

/-- A byte stored at an offset below its window's size. -/
theorem State.putByte_storesInWindows {s : State} {w : Window} {o : Nat} (b : Byte) (ho : o < w.size s.params)
    (h : s.storesInWindows) : (s.putByte w o b).storesInWindows := by
  obtain ⟨⟨hin, hout, hpal, hidx, hpix⟩, hnotes⟩ := h
  cases w with
  | pal => exact ⟨⟨hin, hout, Memory.write_within hpal ho b, hidx, hpix⟩, hnotes⟩
  | idx => exact ⟨⟨hin, hout, hpal, Memory.write_within hidx ho b, hpix⟩, hnotes⟩
  | pix => exact ⟨⟨hin, hout, hpal, hidx, Memory.write_within hpix (pixBytes_eq ▸ ho) b⟩, hnotes⟩
  | out => exact ⟨⟨hin, Memory.write_within hout ho b, hpal, hidx, hpix⟩, hnotes⟩
  | inp => exact ⟨⟨Memory.write_within hin ho b, hout, hpal, hidx, hpix⟩, hnotes⟩

/-- The offset an access reaches lies in its window (20_memory.md R67). -/
theorem accessAt_offset {p : Params} {first a o : Nat} {w : Window} (h : accessAt p first a = some (w, o)) :
    a = w.base + o ∧ o < w.size p := memoryAt_some (accessAt_some h).1

theorem State.writeByte_storesInWindows {s : State} (first a : Nat) (b : Byte) (h : s.storesInWindows) :
    (s.writeByte first a b).storesInWindows := by
  obtain ⟨hmem, hdp, hdo⟩ := id h
  rcases s.writeByte_cases first a b with ⟨_, he⟩ | ⟨w, o, ha, hcase⟩
  · rwa [he]
  · have ho := (accessAt_offset ha).2
    rcases hcase with ⟨_, he⟩ | ⟨_, rfl, he⟩ | ⟨_, rfl, he⟩ | ⟨_, _, he⟩ <;> rw [he]
    · exact State.putByte_storesInWindows b ho h
    · exact ⟨hmem, List.forall_mem_cons.2 ⟨pixBytes_eq ▸ ho, hdp⟩, hdo⟩
    · exact ⟨hmem, hdp, List.forall_mem_cons.2 ⟨ho, hdo⟩⟩
    · exact State.putByte_storesInWindows b ho h

theorem State.writeBytes_storesInWindows {s : State} (first a : Nat) (bs : List Byte) (h : s.storesInWindows) :
    (s.writeBytes first a bs).storesInWindows := by
  induction bs generalizing s a with
  | nil => exact h
  | cons b bs ih => exact ih (a + 1) (State.writeByte_storesInWindows first a b h)

/-- Bytes of OUT written below OUT_CAP. -/
theorem State.writeOut_storesInWindows {s : State} {a : Nat} {bs : List Byte} (hfit : a + bs.length ≤ s.params.outCap)
    (h : s.storesInWindows) : State.storesInWindows { s with outMem := s.outMem.writeBytes a bs } := by
  obtain ⟨⟨hin, hout, hpal, hidx, hpix⟩, hnotes⟩ := h
  exact ⟨⟨hin, Memory.writeBytes_within hout hfit, hpal, hidx, hpix⟩, hnotes⟩

/-! What the engine keeps. -/

/-- The invariant of every step: stores inside the windows, and a running ENCODE whose plan fits OUT. -/
abbrev State.contained (s : State) : Prop := s.storesInWindows ∧ s.encodeFits

theorem State.encodeFits_idle {s : State} (h : s.phase = .idle) : s.encodeFits := fun _ hne => absurd h hne

theorem State.encodeFits_other {s : State} (h : s.encoding = false) : s.encodeFits :=
  fun he => absurd (he.symm.trans h) (by decide)

theorem State.complete_contained {s : State} (r : Result) (h : s.storesInWindows) : (s.complete r).contained :=
  ⟨State.complete_storesInWindows r h, State.encodeFits_idle (s.complete_phase r)⟩

theorem State.raise_contained {s : State} (e : Code) (c : Sec) (k : Nat) (h : s.storesInWindows) :
    (s.raise e c k).contained :=
  ⟨State.raise_storesInWindows e c k h, State.encodeFits_idle (s.raise_phase e c k)⟩

/-- Outside ENCODE the engine stores pixels only, 5000 at most. -/
theorem EngineMove.keeps_storesInWindows {s t : State} (hm : EngineMove s t) (he : s.encoding = false)
    (h : s.storesInWindows) : t.storesInWindows := by
  obtain ⟨⟨hin, hout, hpal, hidx, hpix⟩, hnotes⟩ := id h
  cases hm with
  | rest | load | count | leave => exact h
  | write _ _ _ _ _ _ hw => exact absurd (hw.symm.trans he) (by decide)
  | paint size ps d _ _ _ _ hn =>
    have hfit : 2 * s.count + (pixelBytes ps).length ≤ pixBytes := by rw [pixelBytes_length, pixBytes_eq]; omega
    exact ⟨⟨hin, hout, hpal, hidx, Memory.writeBytes_within hpix hfit⟩, hnotes⟩
  | abort => exact State.raise_storesInWindows _ _ _ h
  | finish => exact State.complete_storesInWindows _ h

/-- ENCODE's sections lie one after another in OUT, the last ending below 5386 (42_pixel_encoder.md R193). -/
theorem engineEffect_encode_contained {s : State} (hp : s.params.legal) (he : s.encoding = true) (h : s.contained) :
    (engineEffect s).contained := by
  obtain ⟨hstore, hfits⟩ := h
  obtain ⟨_, _, hcap, _⟩ := hp
  cases hph : s.phase <;> simp only [engineEffect, hph, he, if_true]
  case idle => exact ⟨hstore, hfits⟩
  case ending => exact State.complete_contained _ hstore
  all_goals
    obtain ⟨hsize, hpos⟩ := hfits he (by simp [hph])
  case ct =>
    rw [State.ctWrite_eq]
    exact ⟨State.writeOut_storesInWindows (by rw [s.tableBytes_length]; omega) hstore, fun _ _ => ⟨hsize, by simp⟩⟩
  case dict =>
    rw [State.dictWrite_eq]
    exact ⟨State.writeOut_storesInWindows (by rw [dictBytes_length]; omega) hstore, fun _ _ => ⟨hsize, by simp⟩⟩
  case flen =>
    rw [State.flenWrite_eq]
    exact ⟨State.writeOut_storesInWindows (by simp [bytesOfHalf]; omega) hstore, fun _ _ => ⟨hsize, by simp⟩⟩
  case fbits =>
    rw [State.fbitsWrite_eq]
    exact ⟨State.writeOut_storesInWindows (by rw [flipBytes_length]; omega) hstore, fun _ _ => ⟨hsize, fun _ => rfl⟩⟩
  case pixels =>
    rw [State.bodyWrite_eq]
    exact ⟨State.writeOut_storesInWindows (by have := hpos hph; omega) hstore, fun _ _ => ⟨hsize, by simp⟩⟩

theorem engineEffect_contained {s : State} (hp : s.params.legal) (h : s.contained) : (engineEffect s).contained := by
  cases he : s.encoding with
  | true => exact engineEffect_encode_contained hp he h
  | false =>
    have hm := engineEffect_move s
    obtain ⟨_, _, _, _, _, _, hcmd, _⟩ := hm.frame
    have het : (engineEffect s).encoding = false := by rw [State.encoding, hcmd]; exact he
    exact ⟨hm.keeps_storesInWindows he h.1, State.encodeFits_other het⟩

/-! What a host access keeps. -/

theorem State.hostWrite_contained {s : State} (w : Width) (a v : Word) (h : s.contained) :
    (s.hostWrite w a v).contained := by
  unfold State.hostWrite
  split
  · split
    · rcases s.writeRegister_cases a.toNat v with he | ⟨_, _, he⟩ | ⟨_, _, he⟩ | ⟨_, _, he⟩ <;> rw [he] <;> exact h
    · exact h
  · refine ⟨State.writeBytes_storesInWindows _ _ _ h.1, ?_⟩
    simpa [State.encodeFits, State.encoding] using h.2

theorem State.checkLength_contained {s : State} (he : s.encoding = false) (h : s.storesInWindows) :
    s.checkLength.contained := by
  rcases s.checkLength_cases with ⟨_, heq⟩ | ⟨_, heq⟩ <;> rw [heq]
  · exact State.raise_contained _ _ _ h
  · exact ⟨h, State.encodeFits_other he⟩

theorem State.checkRaster_contained {s : State} (h : s.storesInWindows) : s.checkRaster.contained := by
  rcases s.checkRaster_cases with ⟨n, _, heq⟩ | ⟨_, heq⟩ <;> rw [heq]
  · exact State.raise_contained _ _ _ h
  · exact ⟨h, fun _ _ => ⟨s.makePlan_fits, by simp⟩⟩

theorem State.startCommand_contained {s : State} {c : BitVec 3} {m k : Bool} {f : State → State} (h : s.contained)
    (hf : (f (s.nextEvent.start c m k)).contained) : (s.startCommand c m k f).contained := by
  rcases s.startCommand_cases c m k f with ⟨_, he⟩ | ⟨_, he⟩ <;> rw [he]
  · exact h
  · exact hf

theorem command_contained {s : State} {v : Word} {i : Instr} (hi : decodeCommand v = some i) (h : s.contained) :
    (effect i s).contained := by
  have hstart (c : BitVec 3) (m k : Bool) : (s.nextEvent.start c m k).storesInWindows := h.1
  rcases decodeCommand_cases hi with rfl | rfl | rfl | rfl
  · exact State.startCommand_contained h (State.checkLength_contained rfl (hstart ..))
  · exact State.startCommand_contained h (State.checkRaster_contained (hstart ..))
  · exact State.startCommand_contained h (State.checkLength_contained rfl (hstart ..))
  · exact State.startCommand_contained h (State.raise_contained _ _ _ (hstart ..))

theorem stepEffect_contained {s : State} (hp : s.params.legal) (h : s.contained) : (stepEffect s).contained := by
  rcases hq : s.hostQ with _ | ⟨e, q⟩
  · simp only [stepEffect, hq]; exact engineEffect_contained hp h
  · cases e with
    | wait => simp only [stepEffect, hq]; exact engineEffect_contained (s := s.nextEvent) hp h
    | reset => simp only [stepEffect, hq]; exact ⟨s.nextEvent.applyReset_storesInWindows, State.encodeFits_idle rfl⟩
    | read w a =>
      obtain ⟨v, n, _, he⟩ := State.hostRead_eq w a s.nextEvent
      simp only [stepEffect, hq, he]
      exact h
    | write w a v =>
      simp only [stepEffect, hq]
      cases hr : (HostEvent.write w a v).startRequest with
      | none => exact State.hostWrite_contained (s := s.nextEvent) w a v h
      | some i =>
        obtain ⟨_, _, hi⟩ := HostEvent.startRequest_some hr
        exact command_contained hi h

/-- No step writes the build parameters (log 7). -/
theorem StepMove.params {s t : State} (hm : StepMove s t) : t.params = s.params := by
  cases hm with
  | engine _ he | waited he =>
    obtain ⟨_, _, _, _, _, _, _, _, _, _, hparams, _⟩ := he.frame
    exact hparams
  | turnedAway => simp
  | bytes => simp
  | reset | read | ignored | started | setCtrl | setInLen | setPalCount => rfl

/-- Settles O53: `contained` is kept by the engine's steps and by every host access. -/
theorem stepKeepsMemoriesInWindows : Obligations.StepKeepsMemoriesInWindows := by
  intro s t hp hmem hfits hdp hdo hstep
  have hparams := (step_move hstep).params
  rw [step_eq] at hstep
  cases hstep
  obtain ⟨⟨hmem', hdp', hdo'⟩, hfits'⟩ := stepEffect_contained hp ⟨⟨hmem, hdp, hdo⟩, hfits⟩
  exact ⟨hparams, hmem', hfits', hdp', hdo'⟩

end Sys2Proof.Machine
end

section
/-!
The host address map (20_memory.md R66), and which bytes of a window an access reaches (R67).
-/

namespace Sys2Proof.Machine

open Sys2Proof

/-- With legal parameters no address lies in two windows. -/
theorem Window.holds_disjoint {p : Params} (hp : p.legal) {a : Nat} {w x : Window} (hw : w.holds p a = true)
    (hx : x.holds p a = true) : w = x := by
  obtain ⟨_, _, _, hcap⟩ := hp
  rw [Window.holds_iff] at hw hx
  by_contra hne
  cases w <;> cases x <;>
    simp only [Window.base, Window.size, reduceCtorEq, not_true_eq_false, not_false_eq_true] at hw hx hne <;> omega

theorem memoryAt_none {p : Params} {a : Nat} : memoryAt p a = none ↔ ∀ w : Window, w.holds p a = false := by
  simp only [memoryAt, Option.map_eq_none_iff, List.find?_eq_none, Bool.not_eq_true]
  refine ⟨fun h w => h w ?_, fun h w _ => h w⟩
  cases w <;> simp

/-- With legal parameters the map answers the one window that holds an address. -/
theorem memoryAt_of_holds {p : Params} (hp : p.legal) {a : Nat} {w : Window} (hw : w.holds p a = true) :
    memoryAt p a = some (w, a - w.base) := by
  cases h : memoryAt p a with
  | none => exact absurd (hw.symm.trans (memoryAt_none.1 h w)) (by decide)
  | some c =>
    obtain ⟨x, o⟩ := c
    have ⟨ha, ho⟩ := memoryAt_some h
    obtain rfl : w = x := Window.holds_disjoint hp hw ((Window.holds_iff ..).2 (by omega))
    rw [ha, Nat.add_sub_cancel_left]

/-- An access that starts in a window reaches the bytes in that window and no others (R67). -/
theorem accessAt_window {p : Params} (hp : p.legal) {a o : Nat} {x : Window} (h : memoryAt p a = some (x, o)) (b : Nat) :
    accessAt p a b = if x.base ≤ b ∧ b < x.base + x.size p then some (x, b - x.base) else none := by
  simp only [accessAt, h]
  split
  · next hb => simp [memoryAt_of_holds hp ((Window.holds_iff ..).2 hb)]
  · next hb =>
    rw [Option.filter_eq_none_iff]
    rintro ⟨w, k⟩ hw
    have ⟨_, _⟩ := memoryAt_some hw
    have hne : w ≠ x := by rintro rfl; omega
    simpa using hne

/-- Settles O39. -/
theorem hostMapAsGiven : Obligations.HostMapAsGiven := by
  intro p a hp
  have hat (w : Window) (h : w.base ≤ a ∧ a < w.base + w.size p) := memoryAt_of_holds hp ((Window.holds_iff ..).2 h)
  refine ⟨fun _ _ => hat .pal ?_, fun _ _ => hat .idx ?_, fun _ _ => hat .pix ?_, fun _ _ => hat .out ?_,
    fun _ _ => hat .inp ?_, fun hgap => memoryAt_none.2 fun w => ?_,
    fun b => ⟨fun x o h => accessAt_window hp h b, fun h => by simp only [accessAt, h]⟩⟩
  case refine_6 =>
    obtain ⟨_, _, _, hcap⟩ := hp
    rw [← Bool.not_eq_true, Window.holds_iff]
    cases w <;> simp only [Window.base, Window.size] <;> omega
  all_goals simp only [Window.base, Window.size]; omega

end Sys2Proof.Machine
end

section
/-!
Writes to the memory windows (20_memory.md R64, R67, R68, R71): which bytes an access stores or notes, and what it leaves
alone, while idle and while BUSY.
-/

namespace Sys2Proof.Machine

open Sys2Proof

/-! The bytes an access reaches. -/

/-- Of an access that starts at `first`, the `n` bytes from address `a` on reach offset `o` of window `x`: `Performs` for
the rest of an access. -/
abbrev Reaches (p : Params) (first a n : Nat) (x : Window) (o : Nat) : Prop :=
  a ≤ x.base + o ∧ x.base + o < a + n ∧ accessAt p first (x.base + o) = some (x, o)

@[simp] theorem not_reaches_zero (p : Params) (first a : Nat) (x : Window) (o : Nat) : ¬ Reaches p first a 0 x o := by
  rintro ⟨hle, hlt, _⟩
  omega

/-- The next byte of an access reaches an offset, or a later one does. -/
theorem reaches_succ {p : Params} {first a n : Nat} {x : Window} {o : Nat} :
    Reaches p first a (n + 1) x o ↔ accessAt p first a = some (x, o) ∨ Reaches p first (a + 1) n x o := by
  constructor
  · rintro ⟨hle, hlt, hat⟩
    rcases Nat.eq_or_lt_of_le hle with heq | hgt
    · exact .inl (heq ▸ hat)
    · exact .inr ⟨hgt, by omega, hat⟩
  · rintro (hat | ⟨hle, hlt, hat⟩)
    · obtain ⟨rfl, _⟩ := accessAt_offset hat
      exact ⟨le_refl _, by omega, hat⟩
    · exact ⟨by omega, by omega, hat⟩

/-- No later byte of an access reaches the offset again. -/
theorem not_reaches_again {p : Params} {first a n : Nat} {x : Window} {o : Nat} (h : accessAt p first a = some (x, o)) :
    ¬ Reaches p first (a + 1) n x o := by
  rintro ⟨hle, _, _⟩
  have := (accessAt_offset h).1
  omega

/-! What a write stores. -/

/-- Whether a byte that reaches a window is stored: always while idle, in the input windows while BUSY (R71, R266). -/
abbrev State.stores (s : State) (x : Window) : Prop := s.busy = false ∨ x.isResult = false

@[simp] theorem State.writeBytes_busy (s : State) (first a : Nat) (bs : List Byte) :
    (s.writeBytes first a bs).busy = s.busy := congrArg (BitVec.getLsbD · 0) (s.writeBytes_status first a bs)

theorem State.writeByte_busy (s : State) (first a : Nat) (b : Byte) : (s.writeByte first a b).busy = s.busy :=
  s.writeBytes_busy first a [b]

theorem State.writeByte_params (s : State) (first a : Nat) (b : Byte) : (s.writeByte first a b).params = s.params :=
  s.writeBytes_params first a [b]

theorem State.read_putByte (s : State) (w x : Window) (k o : Nat) (b : Byte) :
    ((s.putByte w k b).memoryOf x).read o = if w = x ∧ k = o then b else (s.memoryOf x).read o := by
  by_cases hw : w = x
  · subst hw
    rw [State.putByte_same]
    by_cases hk : k = o
    · subst hk; simp
    · rw [Memory.read_write_ne _ _ (Ne.symm hk), if_neg fun h => hk h.2]
  · rw [State.putByte_other _ (Ne.symm hw), if_neg fun h => hw h.1]

theorem State.read_writeByte (s : State) (first a : Nat) (b : Byte) (x : Window) (o : Nat) :
    ((s.writeByte first a b).memoryOf x).read o =
      if accessAt s.params first a = some (x, o) ∧ s.stores x then b else (s.memoryOf x).read o := by
  rcases s.writeByte_cases first a b with ⟨ha, he⟩ | ⟨w, k, ha, ⟨hb, he⟩ | ⟨hb, rfl, he⟩ | ⟨hb, rfl, he⟩ | ⟨hb, hw, he⟩⟩ <;>
    rw [he, ha]
  · simp
  · rw [State.read_putByte]
    simp [State.stores, hb]
  · cases x <;> simp [State.stores, hb, Window.isResult, State.memoryOf]
  · cases x <;> simp [State.stores, hb, Window.isResult, State.memoryOf]
  · rw [show State.memoryOf { s.putByte w k b with tainted := true } x = (s.putByte w k b).memoryOf x by cases x <;> rfl,
      State.read_putByte]
    by_cases hx : w = x
    · subst hx; simp [State.stores, hw]
    · simp [hx]

/-- A write stores the bytes that reach a window and no others. -/
theorem State.read_writeBytes (s : State) (first a : Nat) (bs : List Byte) (x : Window) (o : Nat) :
    ((s.writeBytes first a bs).memoryOf x).read o =
      if Reaches s.params first a bs.length x o ∧ s.stores x then bs.getD (x.base + o - a) 0#8
      else (s.memoryOf x).read o := by
  induction bs generalizing s a with
  | nil => simp [State.writeBytes]
  | cons b bs ih =>
    rw [State.writeBytes, ih, State.read_writeByte]
    simp only [State.stores, State.writeByte_busy, State.writeByte_params, List.length_cons, reaches_succ]
    by_cases hat : accessAt s.params first a = some (x, o)
    · have := (accessAt_offset hat).1
      simp [hat, not_reaches_again hat, ← this]
    · by_cases hr : Reaches s.params first (a + 1) bs.length x o
      · obtain ⟨hle, _, _⟩ := id hr
        have hi : x.base + o - a = x.base + o - (a + 1) + 1 := by omega
        simp [hat, hi]
      · simp [hat, hr]

/-! What a write notes. -/

theorem State.writeByte_tainted (s : State) (first a : Nat) (b : Byte) :
    (s.writeByte first a b).tainted = true ↔
      s.tainted = true ∨ s.busy = true ∧ ∃ x o, x.isResult = false ∧ accessAt s.params first a = some (x, o) := by
  rcases s.writeByte_cases first a b with ⟨ha, he⟩ | ⟨w, k, ha, ⟨hb, he⟩ | ⟨hb, rfl, he⟩ | ⟨hb, rfl, he⟩ | ⟨hb, hw, he⟩⟩ <;>
    rw [he, ha]
  · simp
  · rw [State.putByte_eq]; simp [hb]
  · simp [Window.isResult]
  · simp [Window.isResult]
  · simp [hb, hw]

/-- While BUSY a write that reaches an input window taints the running command (70_reset_and_hazards.md R266). -/
theorem State.writeBytes_tainted (s : State) (first a : Nat) (bs : List Byte) :
    (s.writeBytes first a bs).tainted = true ↔
      s.tainted = true ∨ s.busy = true ∧ ∃ x o, x.isResult = false ∧ Reaches s.params first a bs.length x o := by
  induction bs generalizing s a with
  | nil => simp [State.writeBytes]
  | cons b bs ih =>
    rw [State.writeBytes, ih, State.writeByte_tainted, State.writeByte_busy, State.writeByte_params, List.length_cons,
      or_assoc, ← and_or_left]
    simp only [reaches_succ, and_or_left, exists_or]

/-- The offsets of a window noted for the completion (log 9). -/
def State.notes (s : State) : Window → List Nat
  | .pix => s.dirtyPix
  | .out => s.dirtyOut
  | _ => []

theorem State.writeByte_notes (s : State) (first a : Nat) (b : Byte) (x : Window) (o : Nat) :
    o ∈ (s.writeByte first a b).notes x ↔
      o ∈ s.notes x ∨ s.busy = true ∧ x.isResult = true ∧ accessAt s.params first a = some (x, o) := by
  rcases s.writeByte_cases first a b with ⟨ha, he⟩ | ⟨w, k, ha, ⟨hb, he⟩ | ⟨hb, rfl, he⟩ | ⟨hb, rfl, he⟩ | ⟨hb, hw, he⟩⟩ <;>
    rw [he, ha]
  · simp
  · rw [State.putByte_eq]; cases x <;> simp [State.notes, hb]
  · cases x <;> simp [State.notes, Window.isResult, hb, or_comm, eq_comm]
  · cases x <;> simp [State.notes, Window.isResult, hb, or_comm, eq_comm]
  · rw [State.putByte_eq, show State.notes _ x = s.notes x by cases x <;> rfl]
    by_cases hx : w = x
    · subst hx; simp [hw]
    · simp [hx]

/-- While BUSY a write notes the bytes that reach PIX or OUT (20_memory.md R71). -/
theorem State.writeBytes_notes (s : State) (first a : Nat) (bs : List Byte) (x : Window) (o : Nat) :
    o ∈ (s.writeBytes first a bs).notes x ↔
      o ∈ s.notes x ∨ s.busy = true ∧ x.isResult = true ∧ Reaches s.params first a bs.length x o := by
  induction bs generalizing s a with
  | nil => simp [State.writeBytes]
  | cons b bs ih =>
    rw [State.writeBytes, ih, State.writeByte_notes, State.writeByte_busy, State.writeByte_params, List.length_cons,
      or_assoc, ← and_or_left, ← and_or_left, ← reaches_succ]

/-! What a write leaves alone. -/

/-- A write changes the memories and the notes of accesses while BUSY, and nothing else. -/
theorem State.eq_of_stripped {s t : State} (h : t.stripped = s.stripped) :
    t = { s with
      inMem := t.inMem, outMem := t.outMem, palMem := t.palMem, idxMem := t.idxMem, pixMem := t.pixMem
      tainted := t.tainted, dirtyPix := t.dirtyPix, dirtyOut := t.dirtyOut } := by
  cases s
  cases t
  simpa [State.stripped] using h

theorem State.writeByte_idle {s : State} (h : s.busy = false) (first a : Nat) (b : Byte) :
    (s.writeByte first a b).tainted = s.tainted ∧ (s.writeByte first a b).dirtyPix = s.dirtyPix ∧
      (s.writeByte first a b).dirtyOut = s.dirtyOut := by
  rcases s.writeByte_cases first a b with ⟨_, he⟩ | ⟨w, k, _, ⟨_, he⟩ | ⟨hb, _⟩ | ⟨hb, _⟩ | ⟨hb, _⟩⟩
  · simp [he]
  · rw [he, State.putByte_eq]; simp
  all_goals exact absurd (h.symm.trans hb) (by decide)

/-- While idle a write notes nothing. -/
theorem State.writeBytes_idle {s : State} (h : s.busy = false) (first a : Nat) (bs : List Byte) :
    (s.writeBytes first a bs).tainted = s.tainted ∧ (s.writeBytes first a bs).dirtyPix = s.dirtyPix ∧
      (s.writeBytes first a bs).dirtyOut = s.dirtyOut := by
  induction bs generalizing s a with
  | nil => exact ⟨rfl, rfl, rfl⟩
  | cons b bs ih =>
    obtain ⟨ht, hp, ho⟩ := State.writeByte_idle h first a b
    rw [← ht, ← hp, ← ho]
    exact ih ((s.writeByte_busy first a b).trans h) (a + 1)

theorem State.writeByte_results {s : State} (h : s.busy = true) (first a : Nat) (b : Byte) :
    (s.writeByte first a b).pixMem = s.pixMem ∧ (s.writeByte first a b).outMem = s.outMem := by
  rcases s.writeByte_cases first a b with ⟨_, he⟩ | ⟨w, k, _, ⟨hb, _⟩ | ⟨_, _, he⟩ | ⟨_, _, he⟩ | ⟨_, hw, he⟩⟩
  · simp [he]
  · exact absurd (h.symm.trans hb) (by decide)
  · simp [he]
  · simp [he]
  · rw [he]
    cases w with
    | pal | idx | inp => exact ⟨rfl, rfl⟩
    | pix | out => exact absurd hw (by decide)

/-- While BUSY a write changes no result memory. -/
theorem State.writeBytes_results {s : State} (h : s.busy = true) (first a : Nat) (bs : List Byte) :
    (s.writeBytes first a bs).pixMem = s.pixMem ∧ (s.writeBytes first a bs).outMem = s.outMem := by
  induction bs generalizing s a with
  | nil => exact ⟨rfl, rfl⟩
  | cons b bs ih =>
    obtain ⟨hp, ho⟩ := State.writeByte_results h first a b
    rw [← hp, ← ho]
    exact ih ((s.writeByte_busy first a b).trans h) (a + 1)

/-! The bytes of a value. -/

theorem bytesOfWord_getD (v : Word) {i : Nat} (hi : i < 4) :
    (bytesOfWord v).getD i 0#8 = BitVec.ofNat 8 (v.toNat / 256 ^ i) := by
  apply BitVec.eq_of_toNat_eq
  interval_cases i <;> simp [bytesOfWord, Nat.shiftRight_eq_div_pow]

theorem Width.bytes_le (w : Width) : w.bytes ≤ 4 := by cases w <;> decide

/-- The bytes a write of a width stores, in increasing address order (R67). -/
def writtenBytes (w : Width) (v : Word) : List Byte := (bytesOfWord v).take w.bytes

@[simp] theorem writtenBytes_length (w : Width) (v : Word) : (writtenBytes w v).length = w.bytes := by
  simp [writtenBytes, bytesOfWord, w.bytes_le]

theorem writtenBytes_getD (w : Width) (v : Word) {i : Nat} (hi : i < w.bytes) :
    (writtenBytes w v).getD i 0#8 = BitVec.ofNat 8 (v.toNat / 256 ^ i) := by
  rw [← bytesOfWord_getD v (hi.trans_le w.bytes_le)]
  simp [writtenBytes, List.getElem?_take_of_lt hi]

theorem State.hostWrite_memory {a : Word} (ha : 0x40 ≤ a.toNat) (w : Width) (v : Word) (s : State) :
    s.hostWrite w a v = s.writeBytes a.toNat a.toNat (writtenBytes w v) := by
  simp only [State.hostWrite, inRegisters_iff, if_neg (Nat.not_lt.2 ha), writtenBytes]

/-- A write to the memory windows is no START. -/
theorem step_write_memory {s : State} {w : Width} {a v : Word} {q : List HostEvent} (ha : 0x40 ≤ a.toNat)
    (h : s.hostQ = .write w a v :: q) :
    step s = .next (State.writeBytes { s with hostQ := q } a.toNat a.toNat (writtenBytes w v)) := by
  rw [step_write h (startRequest_none (.inr (.inl (by rintro rfl; simp at ha)))), State.hostWrite_memory ha]

/-- The bytes a write performs in a window that stores them, little-endian (R64, R67). -/
theorem State.read_writtenBytes (s : State) (w : Width) (a : Nat) (v : Word) {x : Window} (hx : s.stores x) (o : Nat) :
    ((s.writeBytes a a (writtenBytes w v)).memoryOf x).read o =
      if Performs s.params a w.bytes x o then BitVec.ofNat 8 (v.toNat / 256 ^ (x.base + o - a))
      else (s.memoryOf x).read o := by
  rw [State.read_writeBytes, writtenBytes_length]
  by_cases hr : Performs s.params a w.bytes x o
  · obtain ⟨_, _, _⟩ := id hr
    rw [if_pos ⟨hr, hx⟩, if_pos hr, writtenBytes_getD w v (by omega)]
  · rw [if_neg fun h => hr h.1, if_neg hr]

/-- Settles O40. -/
theorem idleMemoryWrites : Obligations.IdleMemoryWrites := by
  intro s w a v q hb ha hq
  obtain ⟨ht, hp, ho⟩ := State.writeBytes_idle (s := { s with hostQ := q }) hb a.toNat a.toNat (writtenBytes w v)
  refine ⟨_, step_write_memory ha hq, ?_, fun x o => ?_⟩
  · have hframe := State.eq_of_stripped (State.writeBytes_stripped { s with hostQ := q } a.toNat a.toNat (writtenBytes w v))
    rwa [ht, hp, ho] at hframe
  · exact (State.read_writtenBytes { s with hostQ := q } w a.toNat v (.inl hb) o).trans (by cases x <;> rfl)

theorem Window.isResult_false {x : Window} : x.isResult = false ↔ x = .inp ∨ x = .pal ∨ x = .idx := by
  cases x <;> simp [Window.isResult]

/-- Settles O45. -/
theorem busyMemoryWrites : Obligations.BusyMemoryWrites := by
  intro s w a v q hb ha hq
  have hb' : State.busy { s with hostQ := q } = true := hb
  obtain ⟨hp, ho⟩ := State.writeBytes_results hb' a.toNat a.toNat (writtenBytes w v)
  have hnotes := State.writeBytes_notes { s with hostQ := q } a.toNat a.toNat (writtenBytes w v)
  refine ⟨_, step_write_memory ha hq, ?_, fun x hx o => ?_, ?_, fun o => ?_, fun o => ?_⟩
  · have hframe := State.eq_of_stripped (State.writeBytes_stripped { s with hostQ := q } a.toNat a.toNat (writtenBytes w v))
    rwa [hp, ho] at hframe
  · have hstores := Window.isResult_false.2 hx
    exact (State.read_writtenBytes { s with hostQ := q } w a.toNat v (.inr hstores) o).trans (by cases x <;> rfl)
  · simp only [State.writeBytes_tainted, hb', true_and, writtenBytes_length, Window.isResult_false]
  · simpa [State.notes, hb', Window.isResult] using hnotes .pix o
  · simpa [State.notes, hb', Window.isResult] using hnotes .out o

end Sys2Proof.Machine
end

section
/-!
Reads (20_memory.md R64, R67, R68, R70, R71): the bytes a read of the memory windows answers, while idle and while BUSY,
and the registers read while BUSY.
-/

namespace Sys2Proof.Machine

open Sys2Proof

/-! One byte. -/

/-- A byte of PIX or OUT is read while BUSY: its value is free (log 8). -/
def State.drawsAt (s : State) (first a : Nat) : Bool :=
  s.busy && (accessAt s.params first a).any fun c => c.1.isResult

/-- The byte an access answers at an address, where `n` is the index of the next free value. -/
def State.byteAt (s : State) (first a n : Nat) : Byte :=
  match accessAt s.params first a with
  | some (w, o) => if s.busy && w.isResult then Config.freeByte n else (s.memoryOf w).read o
  | none => 0#8

/-- How many of the `n` bytes of an access from address `a` on draw a free value. -/
def State.drawn (s : State) (first a n : Nat) : Nat := (List.range n).countP fun i => s.drawsAt first (a + i)

theorem State.drawn_succ (s : State) (first a n : Nat) :
    s.drawn first a (n + 1) = (s.drawsAt first a).toNat + s.drawn first (a + 1) n := by
  have hshift : (fun i => s.drawsAt first (a + i)) ∘ Nat.succ = fun i => s.drawsAt first (a + 1 + i) := by
    funext i
    simp only [Function.comp_apply, Nat.succ_eq_add_one, Nat.add_assoc, Nat.add_comm 1]
  simp only [State.drawn, List.range_succ_eq_map, List.countP_cons, List.countP_map, hshift, Nat.add_zero]
  cases s.drawsAt first a <;> simp [Nat.add_comm]

theorem State.readByte_eq (s : State) (first a : Nat) :
    s.readByte first a =
      (s.byteAt first a s.draws, { s with draws := s.draws + (s.drawsAt first a).toNat }) := by
  unfold State.readByte State.byteAt State.drawsAt
  split
  · next h => simp [h]
  · next w o h =>
    by_cases hw : (s.busy && w.isResult) = true
    · simp [h, hw]
    · simp [h, hw]

/-- A byte's value rests on the memories, BUSY and the parameters. -/
theorem State.byteAt_congr {s t : State} (hmem : t.memoryOf = s.memoryOf) (hbusy : t.busy = s.busy)
    (hparams : t.params = s.params) (first a n : Nat) : t.byteAt first a n = s.byteAt first a n := by
  simp only [State.byteAt, hmem, hbusy, hparams]

theorem State.byteAt_draws (s : State) (first a n k : Nat) :
    State.byteAt { s with draws := k } first a n = s.byteAt first a n :=
  State.byteAt_congr (by funext x; cases x <;> rfl) rfl rfl first a n

/-! An access. -/

/-- A read draws one free value for each byte of PIX or OUT read while BUSY, and changes nothing else. -/
theorem State.readBytes_snd (s : State) (first a n : Nat) :
    (s.readBytes first a n).2 = { s with draws := s.draws + s.drawn first a n } := by
  induction n generalizing s a with
  | zero => rfl
  | succ n ih =>
    simp only [State.readBytes, State.readByte_eq, ih, State.drawn_succ, Nat.add_assoc]
    rfl

/-- The digits of a read's value are its bytes in increasing address order (R64). -/
theorem State.readBytes_digit (s : State) (first a n i : Nat) :
    (s.readBytes first a n).1 / 256 ^ i % 256 =
      if i < n then (s.byteAt first (a + i) (s.draws + s.drawn first a i)).toNat else 0 := by
  induction n generalizing s a i with
  | zero => simp [State.readBytes]
  | succ n ih =>
    have hlow := (s.byteAt first a s.draws).isLt
    simp only [State.readBytes, State.readByte_eq]
    cases i with
    | zero => simp [State.drawn]; omega
    | succ i =>
      rw [Nat.pow_succ', ← Nat.div_div_eq_div_mul, Nat.add_mul_div_left _ _ (by decide), Nat.div_eq_of_lt hlow,
        Nat.zero_add, ih, State.byteAt_draws, State.drawn_succ]
      simp only [Nat.add_lt_add_iff_right, Nat.add_assoc, Nat.add_comm 1]
      rfl

theorem State.byteAt_hostQ (s : State) (q : List HostEvent) (first a n : Nat) :
    State.byteAt { s with hostQ := q } first a n = s.byteAt first a n :=
  State.byteAt_congr (by funext x; cases x <;> rfl) rfl rfl first a n

/-- A value's low four digits are those of its word. -/
theorem ofNat_digit (k : Nat) {i : Nat} (hi : i < 4) :
    (BitVec.ofNat 32 k).toNat / 256 ^ i % 256 = k / 256 ^ i % 256 := by
  rw [BitVec.toNat_ofNat]
  interval_cases i <;> omega

/-- A read of the memory windows answers a value whose digits are its bytes, and draws its free values. -/
theorem step_read_memory {s : State} {w : Width} {a : Word} {q : List HostEvent} (ha : 0x40 ≤ a.toNat)
    (h : s.hostQ = .read w a :: q) : ∃ v : Word,
      step s = .next { s with
        hostQ := q, replies := v :: s.replies, draws := s.draws + s.drawn a.toNat a.toNat w.bytes } ∧
      ∀ i, i < 4 → v.toNat / 256 ^ i % 256 =
        if i < w.bytes then (s.byteAt a.toNat (a.toNat + i) (s.draws + s.drawn a.toNat a.toNat i)).toNat else 0 := by
  refine ⟨BitVec.ofNat 32 (State.readBytes { s with hostQ := q } a.toNat a.toNat w.bytes).1, ?_, fun i hi => ?_⟩
  · rw [step_read h]
    simp only [State.hostRead, State.readPort, inRegisters_iff, if_neg (Nat.not_lt.2 ha), State.readBytes_snd]
    rfl
  · rw [ofNat_digit _ hi, State.readBytes_digit, State.byteAt_hostQ]
    rfl

theorem State.drawn_idle {s : State} (h : s.busy = false) (first a n : Nat) : s.drawn first a n = 0 := by
  simp [State.drawn, State.drawsAt, h]

theorem State.drawn_busy {s : State} (h : s.busy = true) (a n : Nat) : s.drawn a a n = resultBytes s.params a n := by
  simp only [State.drawn, State.drawsAt, h, Bool.true_and, resultBytes, List.countP_eq_length_filter]

/-- Settles O41. -/
theorem idleMemoryReads : Obligations.IdleMemoryReads := by
  intro s w a q hb ha hq
  obtain ⟨v, hstep, hdigits⟩ := step_read_memory ha hq
  rw [State.drawn_idle hb] at hstep
  refine ⟨v, hstep, fun i hi => ?_⟩
  rw [hdigits i hi]
  cases hat : accessAt s.params a.toNat (a.toNat + i) <;> simp [State.byteAt, hat, hb]

/-! Reads of REG while BUSY. -/

/-- Of the registers only those that hold results are hidden while BUSY (log 8). -/
theorem State.hostRead_register (s : State) {a : Word} (ha : a.toNat < 0x40) (hal : a.toNat % 4 = 0) :
    s.hostRead .w32 a =
      { (s.readRegister a.toNat).2 with
        replies := (s.readRegister a.toNat).1 :: (s.readRegister a.toNat).2.replies } := by
  simp only [State.hostRead, State.readPort, inRegisters_iff, if_pos ha, registerAccess_iff, hal, and_self, if_true]

theorem State.hostRead_no_register (s : State) {w : Width} {a : Word} (ha : a.toNat < 0x40)
    (h : w ≠ .w32 ∨ a.toNat % 4 ≠ 0) : s.hostRead w a = { s with replies := 0#32 :: s.replies } := by
  have hno : ¬ (w = .w32 ∧ a.toNat % 4 = 0) := by tauto
  simp only [State.hostRead, State.readPort, inRegisters_iff, if_pos ha, registerAccess_iff, if_neg hno]

theorem State.resultRegister_busy {s : State} (h : s.busy = true) (v : Word) (n : Nat) :
    s.resultRegister v n = (((Config.freeWord s.draws).setWidth n).setWidth 32, { s with draws := s.draws + 1 }) := by
  simp [State.resultRegister, h]

theorem setWidth_sixteen (v : Word) : (v.setWidth 16).setWidth 32 = v &&& 0xFFFF#32 := by
  apply BitVec.eq_of_toNat_eq
  have hmask : v.toNat &&& 65535 = v.toNat % 65536 := Nat.and_two_pow_sub_one_eq_mod v.toNat 16
  simp [hmask]
  omega

/-- Offsets from 0x24 on are reserved (10_state.md R31). -/
theorem State.readRegister_reserved (s : State) {k : Nat} (h : 0x24 ≤ k) : s.readRegister k = (0#32, s) := by
  unfold State.readRegister
  split
  case h_10 => rfl
  all_goals omega

theorem Window.isResult_iff {x : Window} : x.isResult = true ↔ x = .pix ∨ x = .out := by
  cases x <;> simp [Window.isResult]

/-- While BUSY a byte of PIX or OUT is free, and the others read as they stand. -/
theorem State.byteAt_busy {s : State} (h : s.busy = true) (first a n : Nat) :
    (s.byteAt first a n).toNat =
      match accessAt s.params first a with
      | some (x, o) => if x = .pix ∨ x = .out then (Config.freeByte n).toNat else ((s.memoryOf x).read o).toNat
      | none => 0 := by
  unfold State.byteAt
  split
  · simp only [h, Bool.true_and, Window.isResult_iff, apply_ite BitVec.toNat]
  · rfl

/-- A register of a result reads a free value while BUSY (20_memory.md R71). -/
theorem step_read_result {s : State} {a : Word} {q : List HostEvent} {held : Word} {n : Nat} (hb : s.busy = true)
    (ha : a.toNat < 0x40) (hal : a.toNat % 4 = 0) (hq : s.hostQ = .read .w32 a :: q)
    (hr : State.readRegister { s with hostQ := q } a.toNat = State.resultRegister { s with hostQ := q } held n) :
    step s = .next { s with
      hostQ := q, replies := ((Config.freeWord s.draws).setWidth n).setWidth 32 :: s.replies, draws := s.draws + 1 } := by
  have hfree := State.resultRegister_busy (s := { s with hostQ := q }) hb held n
  rw [step_read hq, State.hostRead_register _ ha hal, hr, hfree]

/-- Settles O44. -/
theorem busyReads : Obligations.BusyReads := by
  intro s q hb
  refine ⟨fun a ha hq => ?_, fun a ha hq => ?_, fun hq => ?_, fun w a ha hno hq => ?_, fun w a ha hq => ?_⟩
  · rcases ha with rfl | rfl | rfl | rfl <;> rw [step_read hq, State.hostRead_register _ (by decide) (by decide)] <;> rfl
  · rw [← (Config.freeWord s.draws).setWidth_eq, ← ((Config.freeWord s.draws).setWidth 32).setWidth_eq]
    rcases ha with rfl | rfl | rfl | rfl <;> exact step_read_result hb (by decide) (by decide) hq rfl
  · rw [← setWidth_sixteen]
    exact step_read_result hb (by decide) (by decide) hq rfl
  · rw [step_read hq]
    by_cases hreg : w ≠ .w32 ∨ a.toNat % 4 ≠ 0
    · rw [State.hostRead_no_register _ ha hreg]
    · obtain ⟨rfl, hal⟩ : w = .w32 ∧ a.toNat % 4 = 0 := by tauto
      rw [State.hostRead_register _ ha hal, State.readRegister_reserved _ (by tauto)]
  · obtain ⟨v, hstep, hdigits⟩ := step_read_memory ha hq
    rw [State.drawn_busy hb] at hstep
    refine ⟨v, hstep, fun i hi => ?_⟩
    rw [hdigits i hi, State.drawn_busy hb]
    exact congrArg (fun k => if i < w.bytes then k else 0) (State.byteAt_busy hb a.toNat (a.toNat + i) _)

end Sys2Proof.Machine
end

section
/-!
What a completion leaves in PIX and OUT where the host wrote them while the command ran (20_memory.md R71, log 9).
-/

namespace Sys2Proof.Machine

open Sys2Proof

/-- A noted byte of PIX is free after the completion of an untainted command, the others stay. -/
theorem State.complete_read_pix {s : State} (r : Result) (h : s.tainted = false) (o : Nat) :
    (s.complete r).pixMem.read o = if o ∈ s.dirtyPix then Config.freeByte (s.draws + o) else s.pixMem.read o := by
  rw [State.complete_untainted s r h]
  split
  · next ho => exact Memory.read_fill_listed _ _ _ ho
  · next ho => exact Memory.read_fill_other _ _ _ ho

theorem State.complete_read_out {s : State} (r : Result) (h : s.tainted = false) (o : Nat) :
    (s.complete r).outMem.read o =
      if o ∈ s.dirtyOut then Config.freeByte (s.draws + pixBytes + o) else s.outMem.read o := by
  rw [State.complete_untainted s r h]
  split
  · next ho => exact Memory.read_fill_listed _ _ _ ho
  · next ho => exact Memory.read_fill_other _ _ _ ho

/-- What the completion `t` of an untainted command does to PIX and OUT as `s` has them; `keeps` says which bytes of PIX
stay where the host has not written. -/
structure Settles (s t : State) (keeps : Nat → Prop) : Prop where
  dirtyPix : t.dirtyPix = []
  dirtyOut : t.dirtyOut = []
  pixFree : ∀ o ∈ s.dirtyPix, ∃ n, s.draws ≤ n ∧ t.pixMem.read o = Config.freeByte n
  outFree : ∀ o ∈ s.dirtyOut, ∃ n, s.draws ≤ n ∧ t.outMem.read o = Config.freeByte n
  pixKept : ∀ o, o ∉ s.dirtyPix → keeps o → t.pixMem.read o = s.pixMem.read o
  outKept : ∀ o, o ∉ s.dirtyOut → t.outMem.read o = s.outMem.read o

theorem State.complete_settles {s : State} (r : Result) (h : s.tainted = false) :
    Settles s (s.complete r) fun _ => True where
  dirtyPix := s.complete_dirtyPix r
  dirtyOut := s.complete_dirtyOut r
  pixFree o ho := ⟨s.draws + o, by omega, by rw [State.complete_read_pix r h, if_pos ho]⟩
  outFree o ho := ⟨s.draws + pixBytes + o, by omega, by rw [State.complete_read_out r h, if_pos ho]⟩
  pixKept o ho _ := by rw [State.complete_read_pix r h, if_neg ho]
  outKept o ho := by rw [State.complete_read_out r h, if_neg ho]

/-- An abort frees the later pixels of a DECODE too (41_pixel_decoder.md R156, log 10). -/
theorem State.raise_settles {s : State} (e : Code) (c : Sec) (k : Nat) (h : s.tainted = false) :
    Settles s (s.raise e c k) fun o => s.cmd ≠ cmdDecode ∨ o < 2 * s.count := by
  by_cases hc : s.cmd = cmdDecode
  · rw [State.raise_decode s e c k hc]
    obtain ⟨hdp, hdo, hpf, hof, hpk, hok⟩ :=
      State.complete_settles (s := (s.moveTo k).loosePixels) (abortResult s.sniffing e c) h
    refine ⟨hdp, hdo, fun o ho => ?_, fun o ho => ?_, fun o ho hkeep => ?_, hok⟩
    · obtain ⟨n, hn, hread⟩ := hpf o ho
      exact ⟨n, (Nat.le_add_right _ _).trans hn, hread⟩
    · obtain ⟨n, hn, hread⟩ := hof o ho
      exact ⟨n, (Nat.le_add_right _ _).trans hn, hread⟩
    · have hlt : o < 2 * s.count := hkeep.resolve_left fun hne => hne hc
      rw [hpk o ho trivial]
      exact Memory.read_fill_other _ _ _ (by simp [List.mem_range'_1]; omega)
  · rw [State.raise_other s e c k hc]
    obtain ⟨hdp, hdo, hpf, hof, hpk, hok⟩ := State.complete_settles (s := s.moveTo k) (abortResult s.sniffing e c) h
    exact ⟨hdp, hdo, hpf, hof, fun o ho _ => hpk o ho trivial, hok⟩

/-- An aborted DECODE reports an error (60_exceptions.md R240). -/
theorem State.raise_err_decode {s : State} (e : Code) (c : Sec) (k : Nat) (h : s.tainted = false)
    (hc : s.cmd = cmdDecode) : (s.raise e c k).err = true := by
  have hsniff : s.sniffing = false := by rw [State.sniffing, hc]; decide
  rw [State.err, State.raise_status s e c k h, Result.status, statusWord_err, hsniff]
  cases e <;> rfl

/-- The step that ends an untainted command settles what the host wrote while it ran. -/
theorem EngineMove.settles {s t : State} (hm : EngineMove s t) (h : s.tainted = false) (hs : s.phase ≠ .idle)
    (ht : t.phase = .idle) : Settles s t fun o => s.cmd ≠ cmdDecode ∨ t.err = false ∨ o < 2 * s.count := by
  cases hm with
  | rest | paint | count => exact absurd ht hs
  | write _ _ _ _ _ _ _ _ hph | load _ _ _ _ _ _ _ hph => exact absurd ht hph
  | leave => exact absurd ht (by simp)
  | abort l e c k =>
    obtain ⟨hdp, hdo, hpf, hof, hpk, hok⟩ := State.raise_settles (s := { s with flipL := l }) e c k h
    refine ⟨hdp, hdo, hpf, hof, fun o ho hkeep => hpk o ho ?_, hok⟩
    by_cases hc : s.cmd = cmdDecode
    · have herr := State.raise_err_decode (s := { s with flipL := l }) e c k h hc
      rcases hkeep with hne | hfalse | hlt
      · exact absurd hc hne
      · exact absurd (herr.symm.trans hfalse) (by decide)
      · exact .inr hlt
    · exact .inl hc
  | finish n r =>
    obtain ⟨hdp, hdo, hpf, hof, hpk, hok⟩ := State.complete_settles (s := { s with count := n }) r h
    exact ⟨hdp, hdo, hpf, hof, fun o ho _ => hpk o ho trivial, hok⟩

/-- Settles O46. -/
theorem dirtyPixelsAreFree : Obligations.DirtyPixelsAreFree := by
  intro s t hq hs htaint hstep ht
  obtain ⟨hdp, hdo, hpf, hof, hpk, hok⟩ := (step_engineMove hq hstep).settles htaint hs ht
  exact ⟨hdp, hdo, hpf, hof, hpk, hok⟩

end Sys2Proof.Machine
end

section
/-!
No step of the engine depends on a byte of IN at or past `len` (20_memory.md R69, 10_state.md R35): the engine's step
commutes with a change of IN that keeps the bytes below `len`.
-/

namespace Sys2Proof.Machine

open Sys2Proof

/-- The state with another IN. -/
def State.withIn (s : State) (m : Memory) : State := { s with inMem := m }

/-- A memory agrees with IN on the stream. -/
def State.agreesBelow (s : State) (m : Memory) : Prop := ∀ k, k < s.len → m.read k = s.inMem.read k

@[simp] theorem State.withIn_encoding (s : State) (m : Memory) : (s.withIn m).encoding = s.encoding := rfl
@[simp] theorem State.withIn_fcur (s : State) (m : Memory) : (s.withIn m).fcur = s.fcur := rfl
@[simp] theorem State.withIn_phase (s : State) (m : Memory) : (s.withIn m).phase = s.phase := rfl
@[simp] theorem State.withIn_plan (s : State) (m : Memory) : (s.withIn m).plan = s.plan := rfl
@[simp] theorem State.withIn_pos (s : State) (m : Memory) : (s.withIn m).pos = s.pos := rfl

/-- A choice the engine makes alike with either IN. -/
theorem ite_withIn {p : Prop} {i j : Decidable p} {a b a' b' : State} {m : Memory} (ha : p → a' = a.withIn m)
    (hb : ¬ p → b' = b.withIn m) : @ite State p i a' b' = (@ite State p j a b).withIn m := by
  by_cases hp : p
  · rw [if_pos hp, if_pos hp, ha hp]
  · rw [if_neg hp, if_neg hp, hb hp]

/-! What the engine reads of IN. -/

theorem State.inByte_withIn {s : State} {m : Memory} (h : s.agreesBelow m) {k : Nat} (hk : k < s.len) :
    (s.withIn m).inByte k = s.inByte k := h k hk

theorem State.inHalf_withIn {s : State} {m : Memory} (h : s.agreesBelow m) {k : Nat} (hk : k + 1 < s.len) :
    (s.withIn m).inHalf k = s.inHalf k := by
  have h0 : m.read k = s.inMem.read k := h k (by omega)
  have h1 : m.read (k + 1) = s.inMem.read (k + 1) := h (k + 1) hk
  simp only [State.inHalf, State.withIn, Memory.readHalf, h0, h1]

theorem State.tokenBytes_withIn {s : State} {m : Memory} (h : s.agreesBelow m) :
    (s.withIn m).tokenBytes = s.tokenBytes := by
  have hhas (k : Nat) : (s.withIn m).hasByte k = s.hasByte k := rfl
  simp only [State.tokenBytes, hhas, State.withIn_pos]
  split
  · next h0 =>
    rw [State.inByte_withIn h (of_decide_eq_true h0)]
    split
    · next h1 => rw [State.inByte_withIn h (of_decide_eq_true h1)]
    · rfl
  · rfl

/-- The flip bit a DIC takes lies in the flip section, which has been found present (40_table_codecs.md R122, R124). -/
theorem State.flipBit_withIn {s : State} {m : Memory} (h : s.agreesBelow m) (hflip : 386 + s.nfb ≤ s.len)
    (hfcur : s.fcur < 8 * s.nfb) : (s.withIn m).flipBit s.fcur = s.flipBit s.fcur := by
  rw [State.flipBit, State.inByte_withIn h (by omega), State.flipBit]

/-! Completion. -/

theorem State.complete_withIn (s : State) (m : Memory) (r : Result) :
    (s.withIn m).complete r = (s.complete r).withIn m := by
  have ht : (s.withIn m).tainted = s.tainted := rfl
  unfold State.complete
  rw [ht]
  split <;> rfl

theorem State.raise_withIn (s : State) (m : Memory) (e : Code) (c : Sec) (k : Nat) :
    (s.withIn m).raise e c k = (s.raise e c k).withIn m := by
  by_cases hc : s.cmd = cmdDecode
  · rw [State.raise_decode (s.withIn m) _ _ _ hc, State.raise_decode s _ _ _ hc]
    exact State.complete_withIn (s.moveTo k).loosePixels m _
  · rw [State.raise_other (s.withIn m) _ _ _ hc, State.raise_other s _ _ _ hc]
    exact State.complete_withIn (s.moveTo k) m _

/-! The table sections. -/

theorem State.ctRead_withIn {s : State} {m : Memory} (h : s.agreesBelow m) :
    (s.withIn m).ctRead = s.ctRead.withIn m := by
  unfold State.ctRead
  refine ite_withIn (fun _ => s.raise_withIn m _ _ _) fun hlen => ite_withIn (fun _ => rfl) fun _ => ?_
  have hlen' : ¬ s.len < 128 := hlen
  have hread (k : Fin 64) : (s.withIn m).inHalf (2 * k.val) = s.inHalf (2 * k.val) := State.inHalf_withIn h (by omega)
  simp only [hread]
  rfl

theorem State.dictRead_withIn {s : State} {m : Memory} (h : s.agreesBelow m) :
    (s.withIn m).dictRead = s.dictRead.withIn m := by
  unfold State.dictRead
  refine ite_withIn (fun _ => s.raise_withIn m _ _ _) fun hlen => ite_withIn (fun _ => rfl) fun _ => ?_
  have hlen' : ¬ s.len < 384 := hlen
  have hread (j : Fin 64) (b : Nat) (hb : b ≤ 2) :
      (s.withIn m).inHalf (128 + 4 * j.val + b) = s.inHalf (128 + 4 * j.val + b) := State.inHalf_withIn h (by omega)
  have hleft (j : Fin 64) : (s.withIn m).inHalf (128 + 4 * j.val) = s.inHalf (128 + 4 * j.val) := hread j 0 (by omega)
  simp only [hleft, hread _ 2 (le_refl 2)]
  rfl

theorem State.flenRead_withIn {s : State} {m : Memory} (h : s.agreesBelow m) :
    (s.withIn m).flenRead = s.flenRead.withIn m := by
  unfold State.flenRead
  refine ite_withIn (fun _ => s.raise_withIn m _ _ _) fun hlen => ?_
  have hlen' : ¬ s.len < 386 := hlen
  rw [State.inHalf_withIn h (by omega)]
  exact ite_withIn (fun _ => State.raise_withIn { s with flipL := s.inHalf 384 } m _ _ _) fun _ => rfl

theorem State.fbitsRead_withIn (s : State) (m : Memory) : (s.withIn m).fbitsRead = s.fbitsRead.withIn m :=
  ite_withIn (fun _ => s.raise_withIn m _ _ _) fun _ => rfl

/-! The sections of ENCODE, which reads nothing of IN. -/

theorem State.putOut_withIn (s : State) (m : Memory) (a : Nat) (bs : List Byte) :
    (s.withIn m).putOut a bs = (s.putOut a bs).withIn m := rfl

theorem State.tableBytes_withIn (s : State) (m : Memory) : (s.withIn m).tableBytes = s.tableBytes := rfl

theorem State.ctWrite_withIn (s : State) (m : Memory) : (s.withIn m).ctWrite = s.ctWrite.withIn m := by
  rw [State.ctWrite, State.putOut_withIn, State.tableBytes_withIn, State.ctWrite]
  rfl

theorem State.dictWrite_withIn (s : State) (m : Memory) : (s.withIn m).dictWrite = s.dictWrite.withIn m := by
  rw [State.dictWrite, State.putOut_withIn, State.withIn_plan, State.dictWrite]
  rfl

theorem State.flenWrite_withIn (s : State) (m : Memory) : (s.withIn m).flenWrite = s.flenWrite.withIn m := by
  rw [State.flenWrite, State.putOut_withIn, State.withIn_plan, State.flenWrite]
  rfl

theorem State.fbitsWrite_withIn (s : State) (m : Memory) : (s.withIn m).fbitsWrite = s.fbitsWrite.withIn m := by
  rw [State.fbitsWrite, State.putOut_withIn, State.withIn_plan, State.fbitsWrite]
  rfl

theorem State.bodyWrite_withIn (s : State) (m : Memory) : (s.withIn m).bodyWrite = s.bodyWrite.withIn m := by
  rw [State.bodyWrite, State.putOut_withIn, State.withIn_plan, State.withIn_pos, State.bodyWrite]
  rfl

/-! Tokens. -/

theorem State.countToken_withIn (s : State) (m : Memory) (size n d : Nat) :
    (s.withIn m).countToken size n d = (s.countToken size n d).withIn m :=
  ite_withIn (fun _ => s.raise_withIn m _ _ _) fun _ => rfl

theorem State.paint_withIn (s : State) (m : Memory) (size : Nat) (ps : List Colour) :
    (s.withIn m).paint size ps = (s.paint size ps).withIn m := by
  simp only [State.paint_eq]
  rfl

theorem State.paintInRow_withIn (s : State) (m : Memory) (size : Nat) (ps : List Colour) :
    (s.withIn m).paintInRow size ps = (s.paintInRow size ps).withIn m :=
  ite_withIn (fun _ => s.raise_withIn m _ _ _) fun _ => s.paint_withIn m size ps

theorem State.paintPair_withIn {s : State} {m : Memory} (h : s.agreesBelow m) (hflip : 386 + s.nfb ≤ s.len)
    (j : BitVec 6) : (s.withIn m).paintPair j = (s.paintPair j).withIn m := by
  unfold State.paintPair
  refine ite_withIn (fun _ => s.raise_withIn m _ _ _) fun _ =>
    ite_withIn (fun _ => s.raise_withIn m _ _ _) fun hsupply => ?_
  have hbit := State.flipBit_withIn h hflip (Nat.not_le.1 hsupply)
  simp only [State.paint_eq, State.withIn_fcur, hbit]
  rfl

theorem effect_withIn {s : State} {m : Memory} (h : s.agreesBelow m) (hflip : 386 + s.nfb ≤ s.len) {i : Instr}
    (hi : i.source = .stream) : effect i (s.withIn m) = (effect i s).withIn m := by
  cases i with
  | sgl x => exact ite_withIn (fun _ => s.countToken_withIn m _ _ _) fun _ => s.paint_withIn m _ _
  | dbl x => exact ite_withIn (fun _ => s.countToken_withIn m _ _ _) fun _ => s.paintInRow_withIn m _ _
  | dic j => exact ite_withIn (fun _ => s.countToken_withIn m _ _ _) fun _ => State.paintPair_withIn h hflip j
  | run x r => exact ite_withIn (fun _ => s.countToken_withIn m _ _ _) fun _ => s.paintInRow_withIn m _ _
  | decode | encode | sniff | badCommand => exact absurd hi (by simp [Instr.source])

theorem tokenEffect_withIn {s : State} {m : Memory} (h : s.agreesBelow m) (hflip : 386 + s.nfb ≤ s.len) :
    tokenEffect (s.withIn m) = (tokenEffect s).withIn m := by
  unfold tokenEffect
  rw [State.tokenBytes_withIn h]
  refine ite_withIn (fun _ => ?_) fun _ => rfl
  rcases s.fetch_cases with ⟨_, hd⟩ | ⟨_, hd⟩ | ⟨_, i, rest, hd, hi, _⟩ <;> simp only [hd]
  · exact s.raise_withIn m _ _ _
  · exact s.raise_withIn m _ _ _
  · exact effect_withIn h hflip hi

/-! One step, and a run. -/

theorem State.finishSniff_withIn (s : State) (m : Memory) : (s.withIn m).finishSniff = s.finishSniff.withIn m :=
  ite_withIn (fun _ => s.raise_withIn m _ _ _) fun _ => s.complete_withIn m _

/-- A step of the engine commutes with a change of IN at or past `len`. -/
theorem engineEffect_withIn {s : State} {m : Memory} (h : s.agreesBelow m) (hc : s.cursorsInRange) :
    engineEffect (s.withIn m) = (engineEffect s).withIn m := by
  obtain ⟨_, _, hcur⟩ := hc
  cases he : s.encoding with
  | true =>
    cases hph : s.phase <;> simp only [engineEffect, State.withIn_phase, State.withIn_encoding, hph, he, if_true]
    case ending => exact State.complete_withIn { s with count := 5000 } m _
    case ct => exact s.ctWrite_withIn m
    case dict => exact s.dictWrite_withIn m
    case flen => exact s.flenWrite_withIn m
    case fbits => exact s.fbitsWrite_withIn m
    case pixels => exact s.bodyWrite_withIn m
  | false =>
    cases hph : s.phase <;>
      simp only [engineEffect, State.withIn_phase, State.withIn_encoding, hph, he, Bool.false_eq_true, if_false]
    case ct => exact State.ctRead_withIn h
    case dict => exact State.dictRead_withIn h
    case flen => exact State.flenRead_withIn h
    case fbits => exact s.fbitsRead_withIn m
    case pixels =>
      obtain ⟨_, hseen, _⟩ := hcur he
      exact tokenEffect_withIn h (by simpa only [State.lengthSeen, hph] using hseen)
    case ending => exact ite_withIn (fun _ => s.finishSniff_withIn m) fun _ => s.complete_withIn m _

theorem EngineMove.hostQ {s t : State} (hm : EngineMove s t) : t.hostQ = s.hostQ := by
  cases hm with
  | abort | finish => simp
  | rest | write | load | paint | count | leave => rfl

theorem iterate_stepEffect_withIn {s : State} {m : Memory} (n : Nat) (hq : s.hostQ = []) (hc : s.cursorsInRange)
    (h : s.agreesBelow m) : stepEffect^[n] (s.withIn m) = (stepEffect^[n] s).withIn m := by
  induction n generalizing s with
  | zero => rfl
  | succ n ih =>
    have hm := engineEffect_move s
    obtain ⟨hin, _, _, _, _, _, _, _, _, hlen, _⟩ := hm.frame
    have hagree : (engineEffect s).agreesBelow m := fun k hk => by rw [hin]; exact h k (hlen ▸ hk)
    rw [Function.iterate_succ_apply, Function.iterate_succ_apply, stepEffect_silent hq,
      stepEffect_silent (s := s.withIn m) hq, engineEffect_withIn h hc]
    exact ih (hm.hostQ.trans hq) (hm.keeps_cursorsInRange hc) hagree

/-- Settles O59. -/
theorem bytesPastLengthDoNotMatter : Obligations.BytesPastLengthDoNotMatter := by
  intro s m n t hq hc hagree hrun
  rw [run_eq] at hrun ⊢
  cases hrun
  exact congrArg _ (iterate_stepEffect_withIn n hq hc hagree)

end Sys2Proof.Machine
end

section
/-!
Decoding and encoding agree (30_encoding.md R87 to R96). One equation says what `decode` answers for each value of the
opcode field of a token's first byte, and one what a START word starts, by its fields. The other rules take a byte and a
START word apart into their fields and put them together again; the statements follow from the two.
-/

namespace Sys2Proof

/-! The fields of a token's first byte (R87). -/

@[simp] theorem opcodeField_append (op : BitVec 2) (x : BitVec 6) : opcodeField (op ++ x) = op :=
  BitVec.extractLsb'_append_eq_left

@[simp] theorem operandField_append (op : BitVec 2) (x : BitVec 6) : operandField (op ++ x) = x :=
  BitVec.extractLsb'_append_eq_right

theorem opcodeField_append_operandField (v : Byte) : opcodeField v ++ operandField v = v :=
  BitVec.extractLsb'_append_extractLsb'_eq_extractLsb' (w := 8) rfl |>.trans BitVec.extractLsb'_eq_self

theorem append_operandField {v : Byte} {op : BitVec 2} (h : opcodeField v = op) : op ++ operandField v = v :=
  h ▸ opcodeField_append_operandField v

/-- The opcode field numbers the quarter of the byte values that `v` lies in. -/
theorem opcodeField_of_div {v : Byte} {n : Nat} (h : v.toNat / 64 = n) : opcodeField v = BitVec.ofNat 2 n := by
  simp [opcodeField, BitVec.extractLsb', Nat.shiftRight_eq_div_pow, h]

theorem operandField_eq_ofNat (v : Byte) : operandField v = BitVec.ofNat 6 v.toNat := by
  simp [operandField, BitVec.extractLsb']

/-! A token, by its opcode field (R88, R90, R91). -/

theorem decode_sgl {v : Byte} (h : opcodeField v = 0b00#2) (rest : List Byte) :
    decode .stream (v :: rest) = .ok (.sgl (operandField v)) rest := by
  simp [decode, decodeToken, h]

theorem decode_dbl {v : Byte} (h : opcodeField v = 0b01#2) (rest : List Byte) :
    decode .stream (v :: rest) = .ok (.dbl (operandField v)) rest := by
  simp [decode, decodeToken, h]

theorem decode_dic {v : Byte} (h : opcodeField v = 0b10#2) (rest : List Byte) :
    decode .stream (v :: rest) = .ok (.dic (operandField v)) rest := by
  simp [decode, decodeToken, h]

theorem decode_run {v : Byte} (h : opcodeField v = 0b11#2) (r : Byte) (rest : List Byte) :
    decode .stream (v :: r :: rest) = .ok (.run (operandField v) r) rest := by
  simp [decode, decodeToken, h]

theorem decode_run_without_runByte {v : Byte} (h : opcodeField v = 0b11#2) :
    decode .stream [v] = .rejected .runByteMissing := by
  simp [decode, decodeToken, h]

/-! The fields of a START word (R96; 10_state.md R22). -/

/-- Where each bit of a START word comes from. -/
theorem startWord_getLsbD (c : BitVec 3) (m k : Bool) (i : Nat) :
    (startWord c m k).getLsbD i =
      if i < 3 then c.getLsbD i else if i = 3 then m else if i = 4 then k else decide (i = 31) := by
  -- `getLsbD_append` wants the width as the sum of the fields' widths.
  change (1#1 ++ 0#26 ++ BitVec.ofBool k ++ BitVec.ofBool m ++ c).getLsbD i = _
  rw [BitVec.getLsbD_append, BitVec.getLsbD_append, BitVec.getLsbD_append, BitVec.getLsbD_append]
  rcases (by omega : i < 3 ∨ i = 3 ∨ i = 4 ∨ 4 < i) with h | rfl | rfl | h
  · simp only [h, if_true]
  · simp
  · simp
  · have hhigh : ¬ i < 3 ∧ i ≠ 3 ∧ i ≠ 4 ∧ i - 3 ≠ 0 ∧ i - 3 - 1 ≠ 0 := by omega
    rw [Bool.eq_iff_iff]
    simp [hhigh]
    omega

@[simp] theorem ctrlCmd_startWord (c : BitVec 3) (m k : Bool) : ctrlCmd (startWord c m k) = c :=
  BitVec.extractLsb'_append_eq_right

@[simp] theorem ctrlMode_startWord (c : BitVec 3) (m k : Bool) : ctrlMode (startWord c m k) = m :=
  startWord_getLsbD c m k 3

@[simp] theorem ctrlStrict_startWord (c : BitVec 3) (m k : Bool) : ctrlStrict (startWord c m k) = k :=
  startWord_getLsbD c m k 4

@[simp] theorem ctrlStart_startWord (c : BitVec 3) (m k : Bool) : ctrlStart (startWord c m k) = true :=
  startWord_getLsbD c m k 31

/-- A word with bit 31 set, its reserved bits dropped, is the START word of its fields. -/
theorem startWord_of_fields {w : Word} (h : ctrlStart w = true) :
    startWord (ctrlCmd w) (ctrlMode w) (ctrlStrict w) = w &&& 0x8000001F#32 := by
  refine BitVec.eq_of_getLsbD_eq fun i hi => ?_
  rw [startWord_getLsbD, BitVec.getLsbD_and, ctrlCmd, BitVec.getLsbD_extractLsb']
  rw [ctrlStart] at h
  interval_cases i <;> simp [ctrlMode, ctrlStrict, h]

theorem wordOfBytes_bytesOfWord (w : Word) :
    wordOfBytes (w.extractLsb' 0 8) (w.extractLsb' 8 8) (w.extractLsb' 16 8) (w.extractLsb' 24 8) = w := by
  simp only [wordOfBytes, BitVec.extractLsb'_append_extractLsb'_eq_extractLsb']
  exact BitVec.extractLsb'_eq_self

/-! A command, by the fields of its START word (R96). -/

/-- The command that a START word with these fields starts: `decodeCommand_of_start`. -/
def startedCommand (c : BitVec 3) (m k : Bool) : Instr :=
  if c = 1#3 then .decode m k
  else if c = 2#3 then .encode m k
  else if c = 3#3 then .sniff m k
  else .badCommand c m k

/-- The CMD values that `startedCommand` distinguishes. -/
theorem cmd_cases (c : BitVec 3) : c = 1#3 ∨ c = 2#3 ∨ c = 3#3 ∨ reservedCmd c = true := by
  revert c; decide

theorem startedCommand_of_reserved {c : BitVec 3} (h : reservedCmd c = true) (m k : Bool) :
    startedCommand c m k = .badCommand c m k := by
  obtain ⟨h1, h2, h3⟩ : c ≠ 1#3 ∧ c ≠ 2#3 ∧ c ≠ 3#3 := by revert c; decide
  simp only [startedCommand, h1, h2, h3, if_false]

theorem startedCommand_source (c : BitVec 3) (m k : Bool) : (startedCommand c m k).source = .control := by
  rcases cmd_cases c with rfl | rfl | rfl | h
  · rfl
  · rfl
  · rfl
  · rw [startedCommand_of_reserved h, Instr.source]

theorem startedCommand_wellFormed (c : BitVec 3) (m k : Bool) : (startedCommand c m k).wellFormed = true := by
  rcases cmd_cases c with rfl | rfl | rfl | h
  · rfl
  · rfl
  · rfl
  · rwa [startedCommand_of_reserved h, Instr.wellFormed]

theorem encode_startedCommand (c : BitVec 3) (m k : Bool) :
    encode (startedCommand c m k) = bytesOfWord (startWord c m k) := by
  rcases cmd_cases c with rfl | rfl | rfl | h
  · rfl
  · rfl
  · rfl
  · rw [startedCommand_of_reserved h, encode]

theorem decodeCommand_of_start {w : Word} (h : ctrlStart w = true) :
    decodeCommand w = some (startedCommand (ctrlCmd w) (ctrlMode w) (ctrlStrict w)) := by
  simp only [decodeCommand, h, if_true, startedCommand]
  split_ifs <;> rfl

theorem decodeCommand_of_not_start {w : Word} (h : ctrlStart w = false) : decodeCommand w = none := by
  simp [decodeCommand, h]

theorem decodeCommand_startWord (c : BitVec 3) (m k : Bool) :
    decodeCommand (startWord c m k) = some (startedCommand c m k) := by
  rw [decodeCommand_of_start (ctrlStart_startWord c m k), ctrlCmd_startWord, ctrlMode_startWord, ctrlStrict_startWord]

theorem decode_startWord (c : BitVec 3) (m k : Bool) (rest : List Byte) :
    decode .control (bytesOfWord (startWord c m k) ++ rest) = .ok (startedCommand c m k) rest := by
  simp [decode, decodeControl, bytesOfWord, wordOfBytes_bytesOfWord, decodeCommand_startWord]

/-! The statements. -/

/-- Settles O1: a token through its opcode field, a command through the fields of its START word. -/
theorem decodeEncodeAgree : Obligations.DecodeEncodeAgree := by
  intro i rest hwf
  cases i with
  | sgl x => exact (decode_sgl (opcodeField_append _ x) rest).trans (by rw [operandField_append])
  | dbl x => exact (decode_dbl (opcodeField_append _ x) rest).trans (by rw [operandField_append])
  | dic j => exact (decode_dic (opcodeField_append _ j) rest).trans (by rw [operandField_append])
  | run x r => exact (decode_run (opcodeField_append _ x) r rest).trans (by rw [operandField_append])
  | decode m k => exact decode_startWord 1#3 m k rest
  | encode m k => exact decode_startWord 2#3 m k rest
  | sniff m k => exact decode_startWord 3#3 m k rest
  | badCommand c m k => exact (decode_startWord c m k rest).trans (by rw [startedCommand_of_reserved hwf])

/-- Settles O2. -/
theorem everyOpcodeByteDecodes : Obligations.EveryOpcodeByteDecodes := by
  intro v r rest
  rw [← operandField_eq_ofNat]
  exact ⟨fun _ => decode_sgl (opcodeField_of_div (by omega)) rest,
    fun _ _ => decode_dbl (opcodeField_of_div (by omega)) rest,
    fun _ _ => decode_dic (opcodeField_of_div (by omega)) rest,
    fun _ => decode_run (opcodeField_of_div (by omega)) r rest⟩

/-- Settles O3. -/
theorem tokenLengthFromFirstByte : Obligations.TokenLengthFromFirstByte := by
  refine fun v r rest => ⟨fun hv => ?_, fun hv => ?_⟩
  · have h : opcodeField v = 0b11#2 := opcodeField_of_div (by omega)
    exact ⟨⟨_, decode_run h r rest, by rw [encode, append_operandField h]⟩, decode_run_without_runByte h⟩
  · rcases (by omega : v.toNat / 64 = 0 ∨ v.toNat / 64 = 1 ∨ v.toNat / 64 = 2) with hq | hq | hq <;>
      have h := opcodeField_of_div hq
    · exact ⟨_, decode_sgl h rest, by rw [encode, append_operandField h]⟩
    · exact ⟨_, decode_dbl h rest, by rw [encode, append_operandField h]⟩
    · exact ⟨_, decode_dic h rest, by rw [encode, append_operandField h]⟩

/-- Settles O4. -/
theorem startWordsReencode : Obligations.StartWordsReencode := by
  refine fun w => ⟨fun (hs : ctrlStart w = true) => ?_, decodeCommand_of_not_start⟩
  rw [← startWord_of_fields hs]
  exact ⟨_, decodeCommand_of_start hs, startedCommand_wellFormed .., startedCommand_source .., encode_startedCommand ..⟩

/-- Settles O5, each word by its fields. -/
theorem writtenOutWordsDecode : Obligations.WrittenOutWordsDecode :=
  ⟨decode_sgl rfl [], decode_dbl rfl [], decode_dic rfl [], decode_run rfl _ [],
    decodeCommand_of_start rfl, decodeCommand_of_start rfl, decodeCommand_of_start rfl, decodeCommand_of_start rfl⟩

end Sys2Proof
end

section
/-!
The table sections a DECODE or SNIFF reads (40_table_codecs.md R112, R118, R120, R122): one step each, its next state
given by the section's own equation, and where the stream is too short or L too small, the abort as the host sees it.
-/

namespace Sys2Proof.Machine

open Sys2Proof

/-! The step of each table section. -/

/-- While the host is silent a step is a step of the engine. -/
theorem step_silent {s : State} (hq : s.hostQ = []) : step s = .next (engineEffect s) := by
  rw [step_eq, stepEffect_silent hq]

theorem step_ct {s : State} (hq : s.hostQ = []) (hp : s.phase = .ct) :
    step s = .next (if s.encoding then s.ctWrite else s.ctRead) := by
  rw [step_silent hq, engineEffect, hp]

theorem step_dict {s : State} (hq : s.hostQ = []) (hp : s.phase = .dict) :
    step s = .next (if s.encoding then s.dictWrite else s.dictRead) := by
  rw [step_silent hq, engineEffect, hp]

theorem step_flen {s : State} (hq : s.hostQ = []) (hp : s.phase = .flen) :
    step s = .next (if s.encoding then s.flenWrite else s.flenRead) := by
  rw [step_silent hq, engineEffect, hp]

theorem step_fbits {s : State} (hq : s.hostQ = []) (hp : s.phase = .fbits) :
    step s = .next (if s.encoding then s.fbitsWrite else s.fbitsRead) := by
  rw [step_silent hq, engineEffect, hp]

/-! Taking an abort. -/

/-- An abort with no hazard pending is reported as R235 and R240 say. -/
theorem State.raise_reported {s : State} (h : s.undisturbed) (e : Code) (c : Sec) (k : Nat) :
    AbortReported s (s.raise e c k) e c k :=
  have ht : s.tainted = false := h.left
  ⟨s.raise_phase e c k, s.raise_status e c k ht, s.raise_byteCursor e c k ht, s.raise_pixCount e c k ht,
    s.raise_flipCursor e c k ht, s.raise_flipLen e c k ht, s.raise_outLen e c k ht, s.raise_ctrl e c k,
    s.raise_inLen e c k, s.raise_palCount e c k, s.raise_inMem e c k, s.raise_outMem e c k h, s.raise_palMem e c k,
    s.raise_idxMem e c k, fun _ ha => s.raise_pixMem_below e c k h ha, s.raise_pixMem e c k h⟩

/-! Fields of IN. -/

theorem State.inHalf_toNat (s : State) (a : Nat) : (s.inHalf a).toNat = inField s a := by
  rw [State.inHalf, Memory.readHalf, halfOfBytes, toNat_append_eq_add, inField]
  omega

theorem State.ofNat_inField (s : State) (a : Nat) : BitVec.ofNat 16 (inField s a) = s.inHalf a := by
  rw [← State.inHalf_toNat, BitVec.ofNat_toNat, BitVec.setWidth_eq]

/-- A colour is its word without bit 15 (R111). -/
theorem State.colour_inHalf_toNat (s : State) (a : Nat) : (colour (s.inHalf a)).toNat = inField s a % 32768 := by
  rw [colour, BitVec.toNat_setWidth, State.inHalf_toNat]

/-! The statements. -/

/-- Settles O21. -/
theorem colorTableLoads : Obligations.ColorTableLoads := by
  intro s hq hp he hs
  have hstep : step s = .next s.ctRead := by simp [step_ct hq hp, he]
  refine ⟨fun hlen => ?_, fun hlen hu => ?_⟩
  · rw [State.ctRead, if_neg (by omega), hs] at hstep
    exact ⟨_, hstep, rfl, fun k _ => by simp [State.colour_inHalf_toNat]⟩
  · rw [State.ctRead, if_pos hlen] at hstep
    exact ⟨_, hstep, State.raise_reported hu ..⟩

/-- Settles O22. -/
theorem dictionaryLoads : Obligations.DictionaryLoads := by
  intro s hq hp he hs
  have hstep : step s = .next s.dictRead := by simp [step_dict hq hp, he]
  refine ⟨fun hlen => ?_, fun hlen hu => ?_⟩
  · rw [State.dictRead, if_neg (by omega), hs] at hstep
    exact ⟨_, hstep, rfl, fun j _ => by simp [State.colour_inHalf_toNat]⟩
  · rw [State.dictRead, if_pos hlen] at hstep
    exact ⟨_, hstep, State.raise_reported hu ..⟩

/-- Settles O23: the three cases of FLEN_READ are the three clauses. -/
theorem flipLengthReads : Obligations.FlipLengthReads := by
  intro s hq hp he
  have hstep : step s = .next s.flenRead := by simp [step_flen hq hp, he]
  rw [State.ofNat_inField, ← State.inHalf_toNat]
  rcases s.flenRead_cases with ⟨hlen, h⟩ | ⟨hlen, hl, h⟩ | ⟨hlen, hl, h⟩ <;> rw [h] at hstep
  · exact ⟨by omega, by omega, fun _ hu => ⟨_, hstep, State.raise_reported hu ..⟩⟩
  · have hkept (hu : s.undisturbed) :=
      State.raise_reported (s := { s with flipL := s.inHalf 384 }) hu .badFlipLength .flen 384
    exact ⟨by omega, fun _ _ hu => ⟨_, hstep, hkept hu⟩, by omega⟩
  · exact ⟨fun _ _ => hstep, by omega, by omega⟩

/-- Settles O24. -/
theorem flipBitsSkip : Obligations.FlipBitsSkip := by
  intro s hq hp he
  have hstep : step s = .next s.fbitsRead := by simp [step_fbits hq hp, he]
  rcases s.fbitsRead_cases with ⟨hlen, h⟩ | ⟨hlen, h⟩ <;> rw [h] at hstep
  · exact ⟨by omega, fun _ hu => ⟨_, hstep, State.raise_reported hu ..⟩⟩
  · exact ⟨fun _ => hstep, by omega⟩

end Sys2Proof.Machine
end

section
/-!
The table sections an ENCODE writes (40_table_codecs.md R113, R119, R125). Each is a run of 16-bit fields or of bytes in
OUT, so what OUT reads afterwards is what a run of fields reads (Laws/Encoder.lean) inside it and OUT as it was outside.
-/

namespace Sys2Proof.Machine

open Sys2Proof

/-! The bytes of the sections. -/

theorem Memory.readHalf_writeBytes_outside (m : Memory) (a : Nat) (bs : List Byte) {k : Nat}
    (h : k + 2 ≤ a ∨ a + bs.length ≤ k) : (m.writeBytes a bs).readHalf k = m.readHalf k := by
  rw [Memory.readHalf, Memory.read_writeBytes_outside _ _ _ (by omega),
    Memory.read_writeBytes_outside _ _ _ (by omega), Memory.readHalf]

/-- A palette colour as a word is the palette's word with bit 15 cleared (R111, R113). -/
theorem State.colourWord_palColour (s : State) (k : Nat) :
    colourWord (s.palColour k) = s.palMem.readHalf (2 * k) &&& 0x7FFF#16 := by
  apply BitVec.eq_of_toNat_eq
  have hmask := Nat.and_two_pow_sub_one_eq_mod (s.palMem.readHalf (2 * k)).toNat 15
  simp [colourWord, State.palColour, colour] at hmask ⊢
  omega

/-- Word `k` of the color-table section. -/
theorem State.readHalf_tableBytes (s : State) (m : Memory) {k : Nat} (hk : k < 64) :
    (m.writeBytes 0 s.tableBytes).readHalf (2 * k) =
      if k < s.palCount.toNat then s.palMem.readHalf (2 * k) &&& 0x7FFF#16 else 0#16 := by
  have hword := Memory.readHalf_halves
    (fun k => if k < s.palCount.toNat then colourWord (s.palColour k) else 0#16) m 0 hk
  rwa [Nat.zero_add, State.colourWord_palColour] at hword

/-- Two fields for each entry are one run of twice as many fields. -/
theorem halves_of_pairs (f : Nat → Half) (n : Nat) :
    ((List.range n).flatMap fun j => bytesOfHalf (f (2 * j)) ++ bytesOfHalf (f (2 * j + 1))) =
      (List.range (2 * n)).flatMap fun k => bytesOfHalf (f k) := by
  induction n with
  | zero => rfl
  | succ n ih =>
    rw [List.range_succ, List.flatMap_append, ih, Nat.mul_succ, List.range_succ, List.range_succ]
    simp

/-- Word `k` of the dictionary section: the left words at even places, the right words at odd ones (R119). -/
def dictWord (sel : List (Colour × Colour)) (k : Nat) : Half :=
  let q := sel.getD (k / 2) (0#15, 0#15)
  colourWord (if k % 2 = 0 then q.1 else q.2)

@[simp] theorem dictWord_left (sel : List (Colour × Colour)) (j : Nat) :
    dictWord sel (2 * j) = colourWord (sel.getD j (0#15, 0#15)).1 := by
  simp [dictWord]

@[simp] theorem dictWord_right (sel : List (Colour × Colour)) (j : Nat) :
    dictWord sel (2 * j + 1) = colourWord (sel.getD j (0#15, 0#15)).2 := by
  simp [dictWord, Nat.add_mod, show (2 * j + 1) / 2 = j by omega]

/-- The dictionary section is a run of 128 words. -/
theorem dictBytes_eq (sel : List (Colour × Colour)) :
    dictBytes sel = (List.range 128).flatMap fun k => bytesOfHalf (dictWord sel k) := by
  rw [← halves_of_pairs (dictWord sel) 64]
  simp only [dictWord_left, dictWord_right, dictBytes]

/-- Word `k` of the dictionary section, written at `a`. -/
theorem Memory.readHalf_dictBytes (m : Memory) (a : Nat) (sel : List (Colour × Colour)) {k : Nat} (hk : k < 128) :
    (m.writeBytes a (dictBytes sel)).readHalf (a + 2 * k) = dictWord sel k := by
  rw [dictBytes_eq]
  exact Memory.readHalf_halves _ _ _ hk

/-- Single bits put at the places 0 to `n - 1` of a byte. -/
theorem getLsbD_foldl_bits (f : Nat → Bool) {n i : Nat} (hi : i < 8) :
    ((List.range n).foldl (fun acc t => acc ||| (BitVec.ofBool (f t)).setWidth 8 <<< t) 0#8).getLsbD i =
      (decide (i < n) && f i) := by
  induction n with
  | zero => simp
  | succ n ih =>
    rw [List.range_succ, List.foldl_append, List.foldl_cons, List.foldl_nil, BitVec.getLsbD_or, ih]
    rcases Nat.lt_trichotomy i n with h | rfl | h
    · simp [h, Nat.lt_succ_of_lt h]
    · simp [hi]
    · simp [hi, show ¬ i < n by omega, show ¬ i < n + 1 by omega, show i - n ≠ 0 by omega]

/-- Bit `i` of flip byte `b` is flip bit `8b + i`, 0 past the last one (R125). -/
theorem flipByte_getLsbD (flips : List Bool) (b : Nat) {i : Nat} (hi : i < 8) :
    (flipByte flips b).getLsbD i = flips.getD (8 * b + i) false := by
  rw [flipByte, getLsbD_foldl_bits (fun t => flips.getD (8 * b + t) false) hi]
  simp [hi]

/-- Byte `b` of the flip-bit section, written at `a`. -/
theorem Memory.read_flipBytes (m : Memory) (a : Nat) (flips : List Bool) {b : Nat} (hb : b < flipByteCount flips) :
    (m.writeBytes a (flipBytes flips)).read (a + b) = flipByte flips b := by
  rw [Memory.read_writeBytes_inside _ _ _ (by rwa [flipBytes_length])]
  simp [flipBytes]

/-- The two steps of FLIP_WRITE (log 2), one after the other. -/
theorem State.flipWrite_eq (s : State) :
    s.flenWrite.fbitsWrite = { s with
      outMem := (s.outMem.writeHalf 384 (flipLength s.plan.flips)).writeBytes 386 (flipBytes s.plan.flips)
      flipL := flipLength s.plan.flips
      pos := 386 + flipByteCount s.plan.flips
      phase := .pixels } := by
  simp only [State.fbitsWrite_eq, State.flenWrite_eq, Memory.writeHalf]

theorem flipLength_toNat {flips : List Bool} (h : flips.length ≤ 2500) :
    (flipLength flips).toNat = 2 + (flips.length + 7) / 8 := by
  rw [flipLength, flipByteCount, BitVec.toNat_ofNat]
  omega

/-! The statements. -/

/-- Settles O28. -/
theorem colorTableWrites : Obligations.ColorTableWrites := by
  intro s hq hp he
  have hstep : step s = .next s.ctWrite := by simp [step_ct hq hp, he]
  rw [State.ctWrite_eq] at hstep
  refine ⟨_, hstep, by dsimp only, ?_, ?_⟩ <;> dsimp only
  · exact fun k hk => s.readHalf_tableBytes s.outMem hk
  · exact fun a ha => Memory.read_writeBytes_outside _ _ _ (by rw [State.tableBytes_length]; omega)

/-- Settles O29: pair `j` is words `2j` and `2j + 1` of the section. -/
theorem dictionaryWrites : Obligations.DictionaryWrites := by
  intro s hq hp he
  have hstep : step s = .next s.dictWrite := by simp [step_dict hq hp, he]
  rw [State.dictWrite_eq] at hstep
  refine ⟨_, hstep, by dsimp only, ?_, ?_⟩ <;> dsimp only
  · intro j hj
    rw [show 128 + 4 * j = 128 + 2 * (2 * j) by omega, show 128 + 2 * (2 * j) + 2 = 128 + 2 * (2 * j + 1) by omega,
      Memory.readHalf_dictBytes _ _ _ (by omega), Memory.readHalf_dictBytes _ _ _ (by omega), dictWord_left,
      dictWord_right]
    exact ⟨rfl, rfl⟩
  · exact fun a ha => Memory.read_writeBytes_outside _ _ _ (by rw [dictBytes_length]; omega)

/-- Settles O30: the length field's step, then the flip bytes' step, whose bytes lie behind the field. -/
theorem flipTableWrites : Obligations.FlipTableWrites := by
  intro s hq hp he hflips
  have hlength : step s = .next s.flenWrite := by simp [step_flen hq hp, he]
  have hbits : step s.flenWrite = .next s.flenWrite.fbitsWrite := by
    have he' : s.flenWrite.encoding = true := he
    simp [step_fbits (s := s.flenWrite) hq rfl, he']
  rw [State.flipWrite_eq] at hbits
  refine ⟨_, _, hlength, hbits, rfl, by dsimp only [flipByteCount], flipLength_toNat hflips, ?_, ?_, ?_⟩ <;> dsimp only
  · rw [Memory.readHalf_writeBytes_outside _ _ _ (by omega), Memory.readHalf_writeHalf]
  · intro i hi
    have hbyte : i / 8 < flipByteCount s.plan.flips := by rw [flipByteCount]; omega
    rw [Memory.read_flipBytes _ _ _ hbyte, flipByte_getLsbD _ _ (Nat.mod_lt _ (by omega)), Nat.div_add_mod]
  · intro a ha
    rw [Memory.read_writeBytes_outside _ _ _ (by rw [flipBytes_length, flipByteCount]; omega),
      Memory.read_writeHalf_outside _ _ _ (by omega)]

end Sys2Proof.Machine
end

section
/-!
The tokens of a DECODE (41_pixel_decoder.md R150 to R153): what each paints where its pixels fit the row, and the aborts
that come before any pixel.
-/

namespace Sys2Proof.Machine

open Sys2Proof

/-! What is painted. -/

/-- A token that paints pixels moves `count` and `pos` and changes nothing else (R142, R146). -/
theorem State.paint_painted (s : State) (size : Nat) (ps : List Colour) :
    Painted s (s.paint size ps) size ps.length 0 :=
  ⟨by rw [State.paint_eq]; rfl, fun _ ha => s.emitAll_frame ps ha⟩

/-- A token that takes a flip bit as well (R152). -/
theorem painted_takeFlipBit {s t : State} {size n : Nat} (h : Painted s t size n 0) :
    Painted s { t with fcur := s.fcur + 1 } size n 1 := by
  obtain ⟨ht, hframe⟩ := h
  exact ⟨by rw [ht], hframe⟩

theorem State.paint_pixel (s : State) (size : Nat) (ps : List Colour) {k : Nat} (hk : k < ps.length) :
    (s.paint size ps).pixel (s.count + k) = (ps[k]).setWidth 16 := s.emitAll_pixel ps hk

theorem State.paint_two_pixels (s : State) (size : Nat) (p q : Colour) :
    (s.paint size [p, q]).pixel s.count = p.setWidth 16 ∧
      (s.paint size [p, q]).pixel (s.count + 1) = q.setWidth 16 :=
  ⟨s.paint_pixel size [p, q] (k := 0) (by simp), s.paint_pixel size [p, q] (k := 1) (by simp)⟩

/-! The meaning of each token in DECODE. -/

theorem exec_of_effect {i : Instr} {s t : State} (h : effect i s = t) : exec i s = .next t := by rw [exec_eq, h]

theorem effect_sgl {s : State} (hs : s.sniffing = false) (i : BitVec 6) :
    effect (.sgl i) s = s.paint 1 [entry s.ct i] := by simp [effect, hs]

theorem effect_dbl {s : State} (hs : s.sniffing = false) (i : BitVec 6) :
    effect (.dbl i) s = s.paintInRow 1 [entry s.ct i, entry s.ct i] := by simp [effect, hs]

theorem effect_dic {s : State} (hs : s.sniffing = false) (j : BitVec 6) :
    effect (.dic j) s = s.paintPair j := by simp [effect, hs]

theorem effect_run {s : State} (hs : s.sniffing = false) (i : BitVec 6) (r : Byte) :
    effect (.run i r) s = s.paintInRow 2 (List.replicate (runLength r) (entry s.ct i)) := by simp [effect, hs]

/-! The statements. -/

/-- Settles O9: no row check stands before the pixel of an SGL. -/
theorem sglPaintsOnePixel : Obligations.SglPaintsOnePixel := fun s i hs =>
  ⟨_, exec_of_effect (effect_sgl hs i), s.paint_painted 1 [entry s.ct i],
    s.paint_pixel 1 [entry s.ct i] (k := 0) (by simp)⟩

/-- Settles O10: the two outcomes of the row check. -/
theorem dblPaintsTwoPixels : Obligations.DblPaintsTwoPixels := by
  intro s i hs
  have hexec := exec_of_effect (effect_dbl hs i)
  refine ⟨fun hrow => ?_, fun hrow hu => ?_⟩
  · rw [State.paintInRow_fits 1 [entry s.ct i, entry s.ct i] s hrow] at hexec
    exact ⟨_, hexec, s.paint_painted 1 [entry s.ct i, entry s.ct i], s.paint_two_pixels 1 _ _⟩
  · rw [State.paintInRow_overflows 1 [entry s.ct i, entry s.ct i] s hrow] at hexec
    exact ⟨_, hexec, State.raise_reported hu ..⟩

/-- Settles O11: the three cases of DIC are the three clauses, and the flip bit orders the pair. -/
theorem dicPaintsAPair : Obligations.DicPaintsAPair := by
  intro s j hs
  have hexec := exec_of_effect (effect_dic hs j)
  have hcolumn : s.column = s.count % 100 := rfl
  rcases s.paintPair_cases j with ⟨hrow, hflip, h⟩ | ⟨hrow, h⟩ | ⟨hrow, hflip, h⟩ <;> rw [h] at hexec
  · have hpainted := painted_takeFlipBit (s.paint_painted 1 (s.pair j (s.flipBit s.fcur)))
    rw [State.pair_length] at hpainted
    refine ⟨fun _ _ => ⟨_, hexec, hpainted, fun hbit => ?_, fun hbit => ?_⟩, by omega, by omega⟩
    · have hpair : s.pair j (s.flipBit s.fcur) = [entry s.dl j, entry s.dr j] := by
        rw [State.flipBit, State.inByte, hbit]; rfl
      rw [hpair]
      exact s.paint_two_pixels 1 _ _
    · have hpair : s.pair j (s.flipBit s.fcur) = [entry s.dr j, entry s.dl j] := by
        rw [State.flipBit, State.inByte, hbit]; rfl
      rw [hpair]
      exact s.paint_two_pixels 1 _ _
  · exact ⟨by omega, fun _ hu => ⟨_, hexec, State.raise_reported hu ..⟩, by omega⟩
  · exact ⟨by omega, by omega, fun _ _ hu => ⟨_, hexec, State.raise_reported hu ..⟩⟩

end Sys2Proof.Machine
end

section
/-!
The step that fetches a token (41_pixel_decoder.md R143): it runs the token that stands at `pos`, aborts where the
stream gives none, and at 5000 pixels leaves the loop for the end of the DECODE (R140, R163).
-/

namespace Sys2Proof.Machine

open Sys2Proof

/-! The step of the pixel phase, and of the end. -/

theorem engineEffect_pixels {s : State} (hp : s.phase = .pixels) (he : s.encoding = false) :
    engineEffect s = tokenEffect s := by simp [engineEffect, hp, he]

theorem engineEffect_ending {s : State} (hp : s.phase = .ending) (he : s.encoding = false) (hs : s.sniffing = false) :
    engineEffect s = s.finishDecode := by simp [engineEffect, hp, he, hs]

theorem step_pixels {s : State} (hq : s.hostQ = []) (hp : s.phase = .pixels) (he : s.encoding = false) :
    step s = .next (tokenEffect s) := by
  rw [step_silent hq, engineEffect_pixels hp he]

theorem step_wait {s : State} {q : List HostEvent} (hq : s.hostQ = .wait :: q) :
    step s = .next (engineEffect { s with hostQ := q }) := by
  rw [← State.nextEvent_of_hostQ hq, step_eq]
  simp only [stepEffect, hq]

/-! The token step, by what its fetch gives. -/

/-- Before pixel 5000 the engine runs the token that stands at `pos`. -/
theorem engineEffect_token {s : State} {i : Instr} {rest : List Byte} (hp : s.phase = .pixels)
    (he : s.encoding = false) (hc : s.count < 5000) (hd : decode .stream s.tokenBytes = .ok i rest) :
    engineEffect s = effect i s := by
  simp [engineEffect_pixels hp he, tokenEffect, hc, hd]

theorem tokenEffect_at_end {s : State} (hc : 5000 ≤ s.count) : tokenEffect s = { s with phase := .ending } := by
  rw [tokenEffect, if_neg (by omega)]

theorem tokenEffect_exhausted {s : State} (hc : s.count < 5000) (hl : s.len ≤ s.pos) :
    tokenEffect s = s.raise .pixelCountMismatch .pixels s.pos := by
  rcases tokenEffect_cases s with ⟨hge, _⟩ | ⟨_, _, h⟩ | ⟨_, hlen, _⟩ | ⟨_, hlt, _⟩
  · omega
  · exact h
  · omega
  · omega

/-- A RUN whose run byte lies past `len` is a SHORT_READ in the fetch (R153). -/
theorem tokenEffect_run_cut {s : State} (hc : s.count < 5000) (hl : s.len = s.pos + 1)
    (hop : opcodeField (s.inByte s.pos) = 0b11#2) : tokenEffect s = s.raise .shortRead .pixels s.pos := by
  have hbytes : s.tokenBytes = [s.inByte s.pos] := by simp [State.tokenBytes, State.hasByte, hl]
  have hfetch := decode_run_without_runByte hop
  rw [← hbytes] at hfetch
  simp [tokenEffect, hc, hfetch]

/-- STATUS after a DECODE that succeeds, TRAILING alone depending on the stream (10_state.md R23, R50). -/
theorem success_status (trailing : Bool) :
    (Result.status { err := false, accept := false, trailing := trailing, code := .none, sec := .none, outLen := 0 }) =
      if trailing then 0x12#32 else 0x2#32 := by
  cases trailing <;> decide

/-! The statements. -/

/-- Settles O6. -/
theorem stepRunsDecodedInstruction : Obligations.StepRunsDecodedInstruction := by
  refine ⟨fun s i rest hq hp he hc hd => ?_, fun s i rest q hq hp he hc hd => ?_, fun s v q i hq hi => ?_⟩
  · rw [step_silent hq, engineEffect_token hp he hc hd, exec_eq]
  · rw [step_wait hq, engineEffect_token (s := { s with hostQ := q }) hp he hc hd, exec_eq]
  · have hstart : (HostEvent.write .w32 0#32 v).startRequest = some i := hi
    rw [step_start hq hstart, exec_eq]

/-- Settles O12: the two outcomes of the row check, and the fetch without a run byte. -/
theorem runPaintsARun : Obligations.RunPaintsARun := by
  refine ⟨fun s i r hs => ?_, fun s hq hp he hc hu hl hv => ?_⟩
  · have hexec := exec_of_effect (effect_run hs i r)
    have hlen : (List.replicate (runLength r) (entry s.ct i)).length = r.toNat + 3 := List.length_replicate
    refine ⟨fun hrow => ?_, fun hrow hu => ?_⟩
    · rw [State.paintInRow_fits _ _ _ (by rwa [hlen])] at hexec
      refine ⟨_, hexec, hlen ▸ s.paint_painted 2 _, fun k hk => ?_⟩
      rw [s.paint_pixel 2 _ (hlen.symm ▸ hk), List.getElem_replicate]
      rfl
    · rw [State.paintInRow_overflows _ _ _ (by rwa [hlen])] at hexec
      exact ⟨_, hexec, State.raise_reported hu ..⟩
  · have hbyte : 192 ≤ (s.inByte s.pos).toNat := hv
    have hop : opcodeField (s.inByte s.pos) = 0b11#2 :=
      opcodeField_of_div (n := 3) (by have hlt := (s.inByte s.pos).isLt; omega)
    rw [step_pixels hq hp he, tokenEffect_run_cut hc hl hop]
    exact ⟨_, rfl, State.raise_reported hu ..⟩

/-- Settles O13. -/
theorem exhaustedStreamAborts : Obligations.ExhaustedStreamAborts := by
  intro s hq hp he hc hu hl
  rw [step_pixels hq hp he, tokenEffect_exhausted hc hl]
  exact ⟨_, rfl, State.raise_reported hu ..⟩

/-- Settles O26. -/
theorem decodeEnds : Obligations.DecodeEnds := by
  intro s hq he hs
  refine ⟨fun hp hc => ?_, fun hp hu => ?_⟩
  · rw [step_pixels hq hp he, tokenEffect_at_end hc]
  · rw [step_silent hq, engineEffect_ending hp he hs, State.finishDecode, State.complete_undisturbed _ _ hu,
      success_status]
    exact ⟨_, rfl, rfl, by simp, rfl, rfl, rfl, rfl, rfl, rfl, rfl, rfl, rfl, rfl⟩

end Sys2Proof.Machine
end

section
/-!
PIX after an aborted DECODE (41_pixel_decoder.md R156, 60_exceptions.md R239, log 10): a step that ends a DECODE is an
abort or the end with success, and an abort frees PIX from entry `count` on.
-/

namespace Sys2Proof.Machine

open Sys2Proof

/-! How a DECODE ends. -/

/-- The state `t` is an abort taken from `s`, the flip length kept as it was read (40_table_codecs.md R120). -/
def Aborts (s t : State) : Prop := ∃ l e c k, t = State.raise e c k { s with flipL := l }

theorem State.raise_aborts (s : State) (e : Code) (c : Sec) (k : Nat) : Aborts s (s.raise e c k) :=
  ⟨s.flipL, e, c, k, rfl⟩

/-- The command goes on, or it is aborted. -/
abbrev RunsOrAborts (s t : State) : Prop := t.phase ≠ .idle ∨ Aborts s t

theorem State.ctRead_runsOrAborts (s : State) : RunsOrAborts s s.ctRead := by
  rcases s.ctRead_cases with ⟨_, he⟩ | ⟨_, ct, he⟩ <;> rw [he]
  · exact .inr (s.raise_aborts ..)
  · exact .inl (by simp)

theorem State.dictRead_runsOrAborts (s : State) : RunsOrAborts s s.dictRead := by
  rcases s.dictRead_cases with ⟨_, he⟩ | ⟨_, dl, dr, he⟩ <;> rw [he]
  · exact .inr (s.raise_aborts ..)
  · exact .inl (by simp)

theorem State.flenRead_runsOrAborts (s : State) : RunsOrAborts s s.flenRead := by
  rcases s.flenRead_cases with ⟨_, he⟩ | ⟨_, _, he⟩ | ⟨_, _, he⟩ <;> rw [he]
  · exact .inr (s.raise_aborts ..)
  · exact .inr ⟨_, _, _, _, rfl⟩
  · exact .inl (by simp)

theorem State.fbitsRead_runsOrAborts (s : State) : RunsOrAborts s s.fbitsRead := by
  rcases s.fbitsRead_cases with ⟨_, he⟩ | ⟨_, he⟩ <;> rw [he]
  · exact .inr (s.raise_aborts ..)
  · exact .inl (by simp)

theorem State.paint_phase (s : State) (size : Nat) (ps : List Colour) : (s.paint size ps).phase = s.phase := by
  rw [State.paint_eq]

theorem State.paintInRow_runsOrAborts {s : State} (hp : s.phase ≠ .idle) (size : Nat) (ps : List Colour) :
    RunsOrAborts s (s.paintInRow size ps) := by
  rcases s.paintInRow_cases size ps with ⟨_, he⟩ | ⟨_, he⟩ <;> rw [he]
  · exact .inl (by rwa [State.paint_phase])
  · exact .inr (s.raise_aborts ..)

theorem State.paintPair_runsOrAborts {s : State} (hp : s.phase ≠ .idle) (j : BitVec 6) :
    RunsOrAborts s (s.paintPair j) := by
  rcases s.paintPair_cases j with ⟨_, _, he⟩ | ⟨_, he⟩ | ⟨_, _, he⟩ <;> rw [he]
  · exact .inl (by rwa [State.paint_phase])
  · exact .inr (s.raise_aborts ..)
  · exact .inr (s.raise_aborts ..)

theorem effect_runsOrAborts {s : State} (hp : s.phase ≠ .idle) (hs : s.sniffing = false) {i : Instr}
    (hi : i.source = .stream) : RunsOrAborts s (effect i s) := by
  cases i with
  | sgl x => rw [effect_sgl hs]; exact .inl (by rwa [State.paint_phase])
  | dbl x => rw [effect_dbl hs]; exact State.paintInRow_runsOrAborts hp ..
  | dic j => rw [effect_dic hs]; exact State.paintPair_runsOrAborts hp j
  | run x r => rw [effect_run hs]; exact State.paintInRow_runsOrAborts hp ..
  | decode | encode | sniff | badCommand => exact absurd hi (by simp [Instr.source])

theorem tokenEffect_runsOrAborts {s : State} (hp : s.phase ≠ .idle) (hs : s.sniffing = false) :
    RunsOrAborts s (tokenEffect s) := by
  rcases tokenEffect_cases s with ⟨_, he⟩ | ⟨_, _, he⟩ | ⟨_, _, he⟩ | ⟨_, _, i, _, _, hi, _, he⟩ <;> rw [he]
  · exact .inl (by simp)
  · exact .inr (s.raise_aborts ..)
  · exact .inr (s.raise_aborts ..)
  · exact effect_runsOrAborts hp hs hi

/-- A step of a running DECODE goes on, aborts, or is the end with success (60_exceptions.md R240). -/
theorem engineEffect_decode {s : State} (hc : s.cmd = cmdDecode) (hp : s.phase ≠ .idle) :
    RunsOrAborts s (engineEffect s) ∨ engineEffect s = s.finishDecode := by
  have he : s.encoding = false := by rw [State.encoding, hc]; decide
  have hs : s.sniffing = false := by rw [State.sniffing, hc]; decide
  cases h : s.phase
  case idle => exact absurd h hp
  case pixels => rw [engineEffect_pixels h he]; exact .inl (tokenEffect_runsOrAborts hp hs)
  case ending => exact .inr (engineEffect_ending h he hs)
  all_goals left; simp only [engineEffect, h, he, Bool.false_eq_true, if_false]
  case ct => exact s.ctRead_runsOrAborts
  case dict => exact s.dictRead_runsOrAborts
  case flen => exact s.flenRead_runsOrAborts
  case fbits => exact s.fbitsRead_runsOrAborts

theorem State.finishDecode_err {s : State} (h : s.tainted = false) : s.finishDecode.err = false := by
  rw [State.err, State.finishDecode, State.complete_status _ _ h, Result.status, statusWord_err]

/-- The engine step that ends a DECODE with ERR is an abort. -/
theorem engineEffect_aborts {s : State} (hc : s.cmd = cmdDecode) (hp : s.phase ≠ .idle) (ht : s.tainted = false)
    (hidle : (engineEffect s).phase = .idle) (herr : (engineEffect s).err = true) : Aborts s (engineEffect s) := by
  rcases engineEffect_decode hc hp with (hruns | haborts) | hend
  · exact absurd hidle hruns
  · exact haborts
  · rw [hend, State.finishDecode_err ht] at herr
    exact absurd herr (by decide)

/-! PIX after the abort. -/

/-- Each byte of PIX after an aborted DECODE: free where the host wrote it meanwhile (log 9) and from entry `count` on
(log 10), else as it was. -/
theorem State.raise_read_pix {s : State} (e : Code) (c : Sec) (k : Nat) (ht : s.tainted = false)
    (hc : s.cmd = cmdDecode) (a : Nat) :
    (s.raise e c k).pixMem.read a =
      if a ∈ s.dirtyPix then Config.freeByte (s.draws + pixBytes + a)
      else if 2 * s.count ≤ a ∧ a < pixBytes then Config.freeByte (s.draws + a)
      else s.pixMem.read a := by
  have hlater : a ∈ List.range' (2 * s.count) (pixBytes - 2 * s.count) ↔ 2 * s.count ≤ a ∧ a < pixBytes := by
    rw [List.mem_range'_1]; omega
  rw [State.raise_decode s e c k hc, State.complete_read_pix (s := (s.moveTo k).loosePixels) _ ht]
  simp only [State.loosePixels_dirtyPix, State.moveTo_dirtyPix, State.loosePixels_draws, State.moveTo_draws,
    State.loosePixels_pixMem, State.moveTo_pixMem, State.moveTo_count]
  refine if_congr Iff.rfl rfl ?_
  split
  · next h => exact Memory.read_fill_listed _ _ _ (hlater.2 h)
  · next h => exact Memory.read_fill_other _ _ _ (mt hlater.1 h)

/-- From entry `count` on every byte is free, noted or not. -/
theorem State.raise_read_pix_free {s : State} (e : Code) (c : Sec) (k : Nat) (ht : s.tainted = false)
    (hc : s.cmd = cmdDecode) {a : Nat} (ha : 2 * s.count ≤ a) (hb : a < 10000) :
    ∃ n, s.draws ≤ n ∧ (s.raise e c k).pixMem.read a = Config.freeByte n := by
  rw [State.raise_read_pix e c k ht hc, pixBytes_eq, if_pos (And.intro ha hb)]
  split
  · exact ⟨_, by omega, rfl⟩
  · exact ⟨_, by omega, rfl⟩

theorem State.raise_read_pix_kept {s : State} (e : Code) (c : Sec) (k : Nat) (ht : s.tainted = false)
    (hc : s.cmd = cmdDecode) {a : Nat} (hd : a ∉ s.dirtyPix) (ha : a < 2 * s.count ∨ 10000 ≤ a) :
    (s.raise e c k).pixMem.read a = s.pixMem.read a := by
  rw [State.raise_read_pix e c k ht hc, if_neg hd, if_neg (by rw [pixBytes_eq]; omega)]

/-- The pixels of the completed tokens stand, but for bytes the host wrote. -/
theorem State.raise_pixel_kept {s : State} (e : Code) (c : Sec) (k : Nat) (ht : s.tainted = false)
    (hc : s.cmd = cmdDecode) {n : Nat} (hn : n < s.count) (hlow : 2 * n ∉ s.dirtyPix)
    (hhigh : 2 * n + 1 ∉ s.dirtyPix) : (s.raise e c k).pixel n = s.pixel n := by
  rw [State.pixel, Memory.readHalf, State.raise_read_pix_kept e c k ht hc hlow (.inl (by omega)),
    State.raise_read_pix_kept e c k ht hc hhigh (.inl (by omega)), State.pixel, Memory.readHalf]

/-- A START of DECODE with IN_LEN past IN_CAP is an abort before any section (60_exceptions.md R236). -/
theorem effect_decode_badLength {s : State} (hb : s.busy = false) (hl : s.params.inCap < s.inLen.toNat) (m k : Bool) :
    effect (.decode m k) s = (s.nextEvent.start cmdDecode m k).raise .badLength .input 0 := by
  rw [effect, State.startCommand_idle hb]
  exact if_pos hl

/-- Settles O48. -/
theorem abortedPixelsAreFree : Obligations.AbortedPixelsAreFree := by
  refine ⟨fun s t hq hp hc ht hstep hidle herr => ?_, fun s m k hb ht hl => ?_⟩
  · rw [step_silent hq] at hstep
    cases hstep
    obtain ⟨l, e, c, k, heq⟩ := engineEffect_aborts hc hp ht hidle herr
    rw [heq]
    let u : State := { s with flipL := l }
    exact ⟨fun _ hn hlow hhigh => State.raise_pixel_kept (s := u) e c k ht hc hn hlow hhigh,
      fun _ ha hb => State.raise_read_pix_free (s := u) e c k ht hc ha hb,
      fun _ ha hd => State.raise_read_pix_kept (s := u) e c k ht hc hd (.inr ha)⟩
  · let u : State := s.nextEvent.start cmdDecode m k
    exact ⟨_, exec_of_effect (effect_decode_badLength hb hl m k), State.raise_phase ..,
      fun a ha => State.raise_read_pix_free (s := u) _ _ _ ht rfl (Nat.zero_le a) ha⟩

end Sys2Proof.Machine
end

section
/-!
ENCODE around its computation: the VALIDATE that turns a raster away (42_pixel_encoder.md R182, R197), the token bytes'
step and the end (R181, R191), and what needs no walk: the degenerate plan (R184), the bound on the output (R193), and a
pair's key and flip bit (R188).
-/

namespace Sys2Proof.Machine

open Sys2Proof

/-! VALIDATE. -/

/-- `firstFrom` finds the number below which none has the property. -/
theorem firstFrom_eq_some {p : Nat → Bool} {n j : Nat} (hj : j < n) (hp : p j = true)
    (hbelow : ∀ l, l < j → p l = false) : firstFrom p n 0 = some j := by
  cases h : firstFrom p n 0 with
  | none => simp [firstFrom_none.1 h j (Nat.zero_le j) (by omega)] at hp
  | some i =>
    obtain ⟨-, -, hi, hfirst⟩ := firstFrom_some h
    rcases Nat.lt_trichotomy i j with hlt | rfl | hgt
    · simp [hbelow i hlt] at hi
    · rfl
    · simp [hfirst j (Nat.zero_le j) hgt] at hp

theorem State.badPixel_of_palCount {s : State} (h : s.palCount.toNat = 0 ∨ 64 < s.palCount.toNat) :
    s.badPixel = some 0 := if_pos h

theorem State.badPixel_of_index {s : State} {p : Nat} (hpos : 1 ≤ s.palCount.toNat) (hle : s.palCount.toNat ≤ 64)
    (hp : p < 5000) (hbad : s.palCount.toNat ≤ (s.idxMem.read p).toNat)
    (hfirst : ∀ l, l < p → (s.idxMem.read l).toNat < s.palCount.toNat) : s.badPixel = some p := by
  rw [State.badPixel, if_neg (by omega)]
  exact firstFrom_eq_some hp (decide_eq_true hbad) fun l hl => decide_eq_false (Nat.not_le.2 (hfirst l hl))

theorem effect_encode_badPixel {s : State} {n : Nat} (hb : s.busy = false) (hn : s.badPixel = some n) (m k : Bool) :
    effect (.encode m k) s =
      State.raise .unsupportedRaster .input 0 { s.nextEvent.start cmdEncode m k with count := n } := by
  have hstarted : (s.nextEvent.start cmdEncode m k).badPixel = some n := hn
  rw [effect, State.startCommand_idle hb, State.checkRaster, hstarted]

theorem unsupportedRaster_status :
    statusWord false true (abortErr false .unsupportedRaster) false false Code.unsupportedRaster.number
      Sec.input.number = 0x7406#32 := by decide

/-- A START of ENCODE whose VALIDATE names a pixel, as the host sees it (R182, R197). -/
theorem exec_encode_badPixel {s : State} {n : Nat} (hb : s.busy = false) (hu : s.undisturbed) (hn : s.badPixel = some n)
    (m k : Bool) : ∃ t, exec (.encode m k) s = .next t ∧
      t.phase = .idle ∧ t.status = 0x7406#32 ∧ t.pixCount = BitVec.ofNat 32 n ∧ t.byteCursor = 0#32 ∧ t.outLen = 0#32 ∧
      t.flipCursor = 0#32 ∧ t.flipLen = 0#32 ∧ t.outMem = s.outMem ∧ t.pixMem = s.pixMem := by
  obtain ⟨hphase, hstatus, hbyte, hpix, hflip, hflen, hout, -, -, -, -, houtMem, -, -, -, hpixMem⟩ :=
    State.raise_reported (s := { s.nextEvent.start cmdEncode m k with count := n }) hu .unsupportedRaster .input 0
  exact ⟨_, exec_of_effect (effect_encode_badPixel hb hn m k), hphase, hstatus.trans unsupportedRaster_status, hpix,
    hbyte, hout, hflip, hflen, houtMem, hpixMem (show cmdEncode ≠ cmdDecode by decide)⟩

/-- Settles O18: both kinds of input make VALIDATE name a pixel. -/
theorem unsupportedRasterAborts : Obligations.UnsupportedRasterAborts := fun _ m k hb hu =>
  ⟨fun hcount => exec_encode_badPixel hb hu (State.badPixel_of_palCount hcount) m k,
    fun _ hpos hle hp hbad hfirst => exec_encode_badPixel hb hu (State.badPixel_of_index hpos hle hp hbad hfirst) m k⟩

/-! The last two steps of an ENCODE. -/

theorem step_bodyWrite {s : State} (hq : s.hostQ = []) (hp : s.phase = .pixels) (he : s.encoding = true) :
    step s = .next s.bodyWrite := by
  simp [step_silent hq, engineEffect, hp, he]

theorem step_finishEncode {s : State} (hq : s.hostQ = []) (hp : s.phase = .ending) (he : s.encoding = true) :
    step s = .next s.finishEncode := by
  simp [step_silent hq, engineEffect, hp, he]

/-- Settles O31. -/
theorem tokenBytesWrite : Obligations.TokenBytesWrite := by
  intro s hq hp he
  refine ⟨s.bodyWrite, step_bodyWrite hq hp he, ?_, ?_, ?_⟩ <;> rw [State.bodyWrite_eq]
  · exact fun k hk => Memory.read_writeBytes_inside _ _ _ hk
  · exact fun a ha => Memory.read_writeBytes_outside _ _ _ ha

/-- The end of an ENCODE with no hazard pending: the report, and OUT and PIX as they were (R181; 10_state.md R50). -/
theorem State.finishEncode_reported {s : State} (h : s.undisturbed) :
    s.finishEncode.phase = .idle ∧ s.finishEncode.status = 0x2#32 ∧ s.finishEncode.outLen = BitVec.ofNat 32 s.pos ∧
      s.finishEncode.byteCursor = BitVec.ofNat 32 s.pos ∧ s.finishEncode.pixCount = 5000#32 ∧
      s.finishEncode.flipCursor = BitVec.ofNat 32 s.fcur ∧ s.finishEncode.flipLen = s.flipL.setWidth 32 ∧
      s.finishEncode.outMem = s.outMem ∧ s.finishEncode.pixMem = s.pixMem := by
  rw [State.finishEncode, State.complete_undisturbed _ _ (by exact h)]
  exact ⟨rfl, success_status false, rfl, rfl, rfl, rfl, rfl, rfl, rfl⟩

/-- Settles O32. -/
theorem encodeEnds : Obligations.EncodeEnds := fun s hq hp he hu =>
  ⟨s.finishEncode, step_finishEncode hq hp he, State.finishEncode_reported hu⟩

/-! The degenerate plan, and the size of either. -/

/-- Settles O33: the token bytes are the index bytes themselves. -/
theorem degenerateIsOneSglPerPixel : Obligations.DegenerateIsOneSglPerPixel := by
  intro s hm hr
  rw [State.makePlan_degenerate hm]
  refine ⟨rfl, rfl, s.degeneratePlan_size, fun k hk => ?_⟩
  simp [State.degeneratePlan_body hr]

/-- Settles O38. -/
theorem outputFitsBound : Obligations.OutputFitsBound := by
  intro s
  have hfits := s.makePlan_fits
  rw [flipByteCount] at hfits
  refine ⟨by omega, fun hm => ?_⟩
  have hflips : s.makePlan.flips = [] := by rw [State.makePlan_degenerate hm, State.degeneratePlan]
  rw [hflips, State.makePlan_degenerate hm, s.degeneratePlan_size, List.length_nil]

/-! A pair's key and flip bit. -/

theorem pairKey_of_flip {a b : Colour} (h : pairFlip a b = true) : pairKey a b = (b, a) :=
  if_pos (of_decide_eq_true h)

theorem pairKey_of_not_flip {a b : Colour} (h : pairFlip a b = false) : pairKey a b = (a, b) :=
  if_neg (of_decide_eq_false h)

theorem pairFlip_iff {a b : Colour} : pairFlip a b = true ↔ b.toNat < a.toNat := by
  rw [pairFlip, decide_eq_true_iff, BitVec.lt_def]

/-- Settles O36, by the flip bit. -/
theorem keyAndFlipGiveThePair : Obligations.KeyAndFlipGiveThePair := by
  intro a b
  cases h : pairFlip a b with
  | true =>
    have hlt := pairFlip_iff.1 h
    rw [pairKey_of_flip h]
    exact ⟨(min_eq_right hlt.le).symm, (max_eq_left hlt.le).symm, by simp [hlt], by simp, by simp⟩
  | false =>
    have hle : a.toNat ≤ b.toNat := Nat.not_lt.1 fun hlt => by simp [pairFlip_iff.2 hlt] at h
    rw [pairKey_of_not_flip h]
    exact ⟨(min_eq_left hle).symm, (max_eq_right hle).symm, by simp [hle], by simp, by simp⟩

end Sys2Proof.Machine
end

section
/-!
The walk of a row (42_pixel_encoder.md R187, R189): `leading` measures the run of the next index, the walk is one token
for that run and the walk of what the token leaves, and so its tokens take the row apart from left to right.
-/

namespace Sys2Proof.Machine

open Sys2Proof

/-! Runs. -/

theorem getElem?_of_lt_leading {p : Nat} {l : List Nat} {t : Nat} (h : t < leading p l) : l[t]? = some p := by
  rw [(leading_run p l).1, List.getElem?_append_left (by simpa using h), List.getElem?_replicate, if_pos h]

theorem getElem?_leading_ne (p : Nat) (l : List Nat) : l[leading p l]? ≠ some p := by
  intro h
  obtain ⟨hlt, heq⟩ := List.getElem?_eq_some_iff.1 h
  exact leading_stops p l hlt heq

/-- The run at the front of a row is the next index and the equal ones after it, and there is no other (R187). -/
theorem runAt_cons {p q n : Nat} {rest : List Nat} : RunAt (p :: rest) q n ↔ q = p ∧ n = leading p rest + 1 := by
  constructor
  · rintro ⟨hpos, -, hrun, hstop⟩
    obtain ⟨m, rfl⟩ : ∃ m, n = m + 1 := ⟨n - 1, by omega⟩
    obtain rfl : p = q := by simpa using hrun 0 (by omega)
    have hge : m ≤ leading p rest := by
      by_contra hlt
      exact getElem?_leading_ne p rest (by simpa using hrun (leading p rest + 1) (by omega))
    have hle : leading p rest ≤ m := by
      by_contra hlt
      exact hstop (by simpa using getElem?_of_lt_leading (p := p) (l := rest) (t := m) (by omega))
    exact ⟨rfl, by omega⟩
  · rintro ⟨rfl, rfl⟩
    refine ⟨by omega, Nat.succ_le_succ (leading_run q rest).2, fun t ht => ?_,
      by simpa using getElem?_leading_ne q rest⟩
    cases t with
    | zero => rfl
    | succ t => simpa using getElem?_of_lt_leading (Nat.lt_of_succ_lt_succ ht)

/-! The tokens of a walk. -/

@[simp] theorem walkRow_nil (pc : Nat → Colour) (allow : Colour → Colour → Bool) (fuel : Nat) :
    walkRow pc allow fuel [] = [] := by cases fuel <;> rfl

/-- A token takes a list of indices off the front of a row and leaves the rest: the branches of R189. -/
inductive Takes (pc : Nat → Colour) (allow : Colour → Colour → Bool) : WalkToken → List Nat → List Nat → Prop
  | single (p : Nat) (rest : List Nat) : Takes pc allow (.single p) (p :: rest) rest
  | double (p : Nat) (rest : List Nat) : Takes pc allow (.double p) (p :: p :: rest) rest
  | run (p n : Nat) (rest : List Nat) : 3 ≤ n → Takes pc allow (.run p n) (List.replicate n p ++ rest) rest
  | pair (p q : Nat) (rest : List Nat) : allow (pc p) (pc q) = true →
      Takes pc allow (.pair (pc p) (pc q)) (p :: q :: rest) rest

/-- The tokens take a row apart from left to right (R189). -/
inductive Covers (pc : Nat → Colour) (allow : Colour → Colour → Bool) : List WalkToken → List Nat → Prop
  | nil : Covers pc allow [] []
  | cons {tok : WalkToken} {toks : List WalkToken} {row rest : List Nat} :
      Takes pc allow tok row rest → Covers pc allow toks rest → Covers pc allow (tok :: toks) row

/-- The walk's next token and the walk of what it leaves, by the length of the run (R189). -/
theorem walkRow_cons (pc : Nat → Colour) (allow : Colour → Colour → Bool) (fuel p : Nat) (rest : List Nat) :
    ∃ tok row', Takes pc allow tok (p :: rest) row' ∧
      walkRow pc allow (fuel + 1) (p :: rest) = tok :: walkRow pc allow fuel row' := by
  have hrun : p :: rest = p :: (List.replicate (leading p rest) p ++ rest.drop (leading p rest)) :=
    congrArg (p :: ·) (leading_run p rest).1
  rcases hn : leading p rest with _ | _ | n
  · match rest with
    | [] => exact ⟨_, _, .single p [], by simp [walkRow, hn]⟩
    | q :: rest' =>
      cases ha : allow (pc p) (pc q) with
      | true => exact ⟨_, _, .pair p q rest' ha, by simp [walkRow, hn, ha]⟩
      | false => exact ⟨_, _, .single p (q :: rest'), by simp [walkRow, hn, ha]⟩
  · have htakes : Takes pc allow (.double p) (p :: rest) (rest.drop 1) := by
      rw [hn] at hrun; rw [hrun]; exact .double p (rest.drop 1)
    exact ⟨_, _, htakes, by simp [walkRow, hn]⟩
  · have htakes : Takes pc allow (.run p (n + 3)) (p :: rest) (rest.drop (n + 2)) := by
      rw [hn] at hrun; rw [hrun]; exact .run p (n + 3) (rest.drop (n + 2)) (by omega)
    exact ⟨_, _, htakes, by simp [walkRow, hn]⟩

section
variable {pc : Nat → Colour} {allow : Colour → Colour → Bool} {tok : WalkToken} {toks : List WalkToken}
  {row rest : List Nat}

theorem Takes.length_lt (h : Takes pc allow tok row rest) : rest.length < row.length := by
  cases h with
  | single | double | pair => simp only [List.length_cons]; omega
  | run => simp only [List.length_append, List.length_replicate]; omega

theorem Takes.suffix (h : Takes pc allow tok row rest) : rest <:+ row := by
  cases h with
  | single p => exact List.suffix_cons p rest
  | double p => exact (List.suffix_cons p rest).trans (List.suffix_cons p _)
  | pair p q => exact (List.suffix_cons q rest).trans (List.suffix_cons p _)
  | run p n => exact List.suffix_append _ rest

theorem Takes.pixels (h : Takes pc allow tok row rest) : row.map pc = walkPixels pc tok ++ rest.map pc := by
  cases h with
  | single | double | pair => rfl
  | run => rw [List.map_append, List.map_replicate, walkPixels]

theorem Covers.pixels (h : Covers pc allow toks row) : toks.flatMap (walkPixels pc) = row.map pc := by
  induction h with
  | nil => rfl
  | cons htakes _ ih => rw [List.flatMap_cons, ih, htakes.pixels]

/-- Each token of a walk takes its indices off the front of what is left of the row. -/
theorem Covers.takes_of_mem (h : Covers pc allow toks row) (hmem : tok ∈ toks) :
    ∃ l l', Takes pc allow tok l l' ∧ l <:+ row := by
  induction h with
  | nil => simp at hmem
  | cons htakes _ ih =>
    rcases List.mem_cons.1 hmem with rfl | hmem
    · exact ⟨_, _, htakes, List.suffix_refl _⟩
    · obtain ⟨l, l', hl, hsuffix⟩ := ih hmem
      exact ⟨l, l', hl, hsuffix.trans htakes.suffix⟩

theorem Covers.run_bounds {p n : Nat} (h : Covers pc allow toks row) (hmem : .run p n ∈ toks) :
    3 ≤ n ∧ n ≤ row.length := by
  obtain ⟨l, l', htakes, hsuffix⟩ := h.takes_of_mem hmem
  have hle := hsuffix.length_le
  cases htakes with
  | run _ _ _ hn => simp at hle; omega

theorem Covers.pair_allowed {a b : Colour} (h : Covers pc allow toks row) (hmem : .pair a b ∈ toks) :
    allow a b = true := by
  obtain ⟨l, l', htakes, -⟩ := h.takes_of_mem hmem
  cases htakes with
  | pair _ _ _ ha => exact ha

end

theorem walkRow_covers (pc : Nat → Colour) (allow : Colour → Colour → Bool) {fuel : Nat} {row : List Nat}
    (h : row.length ≤ fuel) : Covers pc allow (walkRow pc allow fuel row) row := by
  induction fuel generalizing row with
  | zero => rw [List.length_eq_zero_iff.1 (Nat.le_zero.1 h)]; exact .nil
  | succ fuel ih =>
    match row with
    | [] => exact .nil
    | p :: rest =>
      obtain ⟨tok, row', htakes, heq⟩ := walkRow_cons pc allow fuel p rest
      have hlt := htakes.length_lt
      rw [heq]
      exact .cons htakes (ih (by omega))

/-- Settles O34: the walk covers the row, and its equation at a token is that of `walkRow` with the run measured. -/
theorem walkReproducesRow : Obligations.WalkReproducesRow := by
  intro pc allow fuel row hfuel
  have hcovers := walkRow_covers pc allow hfuel
  refine ⟨hcovers.pixels, fun p n => hcovers.run_bounds, fun a b => hcovers.pair_allowed, fun hne => ?_,
    fun p n hrun => ?_⟩
  · obtain ⟨p, rest, rfl⟩ := List.exists_cons_of_ne_nil hne
    exact ⟨p, _, runAt_cons.2 ⟨rfl, rfl⟩⟩
  · match row, fuel with
    | [], _ => obtain ⟨hpos, hle, -⟩ := hrun; simp at hle; omega
    | q :: rest, 0 => simp at hfuel
    | q :: rest, fuel + 1 =>
      obtain ⟨rfl, rfl⟩ := runAt_cons.1 hrun
      cases rest with
      | nil => rfl
      | cons r rest => rfl

end Sys2Proof.Machine
end

section
/-!
The dictionary selection (42_pixel_encoder.md R190). The distinct keys stand in the order of their first occurrence, and
inserting by count keeps that order among equal counts, so the ranked keys are ordered by `Outranks`, and SEL is the
front of them.
-/

namespace Sys2Proof.Machine

open Sys2Proof

/-- The order of R190: a higher count, or an equal one and an earlier first occurrence. -/
def Outranks (keys : List (Colour × Colour)) (q r : Colour × Colour) : Prop :=
  keys.count r < keys.count q ∨ (keys.count r = keys.count q ∧ keys.idxOf q < keys.idxOf r)

/-- The distinct keys, in the order of their first occurrence. -/
theorem distinctKeys_ordered (keys : List (Colour × Colour)) :
    (distinctKeys keys).Pairwise fun q r => keys.idxOf q < keys.idxOf r := by
  induction keys with
  | nil => exact .nil
  | cons k rest ih =>
    have hidx (r) (hr : r ∈ (distinctKeys rest).filter fun r => r ≠ k) : (k :: rest).idxOf r = rest.idxOf r + 1 :=
      List.idxOf_cons_ne _ (by simpa using (List.mem_filter.1 hr).2 : r ≠ k).symm
    refine List.pairwise_cons.2 ⟨fun r hr => ?_, (ih.filter _).imp_of_mem fun {q r} hq hr hlt => ?_⟩
    · rw [List.idxOf_cons_self, hidx r hr]
      exact Nat.succ_pos _
    · rw [hidx q hq, hidx r hr]
      exact Nat.succ_lt_succ hlt

theorem distinctKeys_length (keys : List (Colour × Colour)) : (distinctKeys keys).length = keys.dedup.length :=
  ((List.perm_ext_iff_of_nodup (distinctKeys_nodup keys) keys.nodup_dedup).2 fun q => by
    rw [mem_distinctKeys, List.mem_dedup]).length_eq

/-- A key with the number of times it occurs. -/
def Counted (keys : List (Colour × Colour)) (x : (Colour × Colour) × Nat) : Prop := x.2 = keys.count x.1

/-- Inserting a key that occurs first before all the others keeps the order. -/
theorem rankInsert_outranks {keys : List (Colour × Colour)} {x : (Colour × Colour) × Nat}
    {l : List ((Colour × Colour) × Nat)} (hx : Counted keys x) (hl : ∀ y ∈ l, Counted keys y)
    (hfirst : ∀ y ∈ l, keys.idxOf x.1 < keys.idxOf y.1)
    (h : l.Pairwise fun y z => Outranks keys y.1 z.1) : (rankInsert x l).Pairwise fun y z => Outranks keys y.1 z.1 := by
  induction l with
  | nil => exact List.pairwise_singleton ..
  | cons y ys ih =>
    obtain ⟨hy, hys⟩ := List.pairwise_cons.1 h
    obtain ⟨hcy, hcys⟩ := List.forall_mem_cons.1 hl
    obtain ⟨hxy, hxys⟩ := List.forall_mem_cons.1 hfirst
    rw [Counted] at hx hcy
    rw [rankInsert]
    split
    · next hle =>
      refine List.pairwise_cons.2 ⟨fun z hz => ?_, h⟩
      rcases List.mem_cons.1 hz with rfl | hz
      · unfold Outranks; omega
      · have hyz := hy z hz
        have hxz := hxys z hz
        unfold Outranks at *; omega
    · next hlt =>
      refine List.pairwise_cons.2 ⟨fun z hz => ?_, ih hcys hxys hys⟩
      rcases List.mem_cons.1 ((rankInsert_perm x ys).mem_iff.1 hz) with rfl | hz
      · unfold Outranks; omega
      · exact hy z hz

/-- Ranking keys that stand in the order of their first occurrence. -/
theorem foldr_rankInsert_outranks {keys : List (Colour × Colour)} {l : List ((Colour × Colour) × Nat)}
    (hl : ∀ y ∈ l, Counted keys y) (hfirst : l.Pairwise fun y z => keys.idxOf y.1 < keys.idxOf z.1) :
    (l.foldr rankInsert []).Pairwise fun y z => Outranks keys y.1 z.1 := by
  induction l with
  | nil => exact .nil
  | cons x l ih =>
    obtain ⟨hx, hfirst⟩ := List.pairwise_cons.1 hfirst
    obtain ⟨hcx, hcl⟩ := List.forall_mem_cons.1 hl
    have hmem (y) : y ∈ l.foldr rankInsert [] ↔ y ∈ l := (foldr_rankInsert_perm l).mem_iff
    exact rankInsert_outranks hcx (fun y hy => hcl y ((hmem y).1 hy)) (fun y hy => hx y ((hmem y).1 hy)) (ih hcl hfirst)

/-- The ranked keys, without their counts. -/
def ranking (keys : List (Colour × Colour)) : List (Colour × Colour) := (rankKeys keys).map Prod.fst

theorem selectKeys_eq (keys : List (Colour × Colour)) : selectKeys keys = (ranking keys).take 64 :=
  List.map_take

theorem ranking_perm (keys : List (Colour × Colour)) : (ranking keys).Perm (distinctKeys keys) := by
  have hperm := (foldr_rankInsert_perm ((distinctKeys keys).map fun q => (q, keys.count q))).map Prod.fst
  rwa [List.map_map, show Prod.fst ∘ (fun q => (q, keys.count q)) = id from rfl, List.map_id] at hperm

theorem ranking_outranks (keys : List (Colour × Colour)) : (ranking keys).Pairwise (Outranks keys) := by
  refine List.pairwise_map.2
    (foldr_rankInsert_outranks (fun y hy => ?_) (List.pairwise_map.2 (distinctKeys_ordered keys)))
  obtain ⟨q, -, rfl⟩ := List.mem_map.1 hy
  rfl

theorem selectKeys_length_le (keys : List (Colour × Colour)) : (selectKeys keys).length ≤ 64 := by
  rw [selectKeys_eq, List.length_take]
  exact min_le_left ..

/-- Settles O35: SEL is the front of the ranking, and what is left out is the rest of it. -/
theorem selectionIsMostFrequent : Obligations.SelectionIsMostFrequent := by
  intro keys
  have hmem (q) : q ∈ ranking keys ↔ q ∈ keys := (ranking_perm keys).mem_iff.trans (mem_distinctKeys keys q)
  have hranked := ranking_outranks keys
  rw [← List.take_append_drop 64 (ranking keys), List.pairwise_append] at hranked
  obtain ⟨hfront, -, hacross⟩ := hranked
  rw [selectKeys_eq]
  refine ⟨?_, fun q hq => (hmem q).1 (List.mem_of_mem_take hq), hfront, fun q hq hout r hr => ?_⟩
  · rw [List.length_take, (ranking_perm keys).length_eq, distinctKeys_length]
  · have hrest : q ∈ (ranking keys).drop 64 := by
      have hall := (hmem q).2 hq
      rw [← List.take_append_drop 64 (ranking keys), List.mem_append] at hall
      exact hall.resolve_left hout
    exact hacross r hr q hrest

end Sys2Proof.Machine
end

section
/-!
The bytes of a walk token (42_pixel_encoder.md R191, R192): they are the encoding of one stream token, so decoding gives
that token back.
-/

namespace Sys2Proof.Machine

open Sys2Proof

/-- The token of the stream that stands for a walk token. -/
def walkInstr (sel : List (Colour × Colour)) : WalkToken → Instr
  | .single p => .sgl (BitVec.ofNat 6 p)
  | .double p => .dbl (BitVec.ofNat 6 p)
  | .run p n => .run (BitVec.ofNat 6 p) (BitVec.ofNat 8 (n - 3))
  | .pair a b => .dic (BitVec.ofNat 6 (sel.idxOf (pairKey a b)))

theorem walkBytes_eq (sel : List (Colour × Colour)) (tok : WalkToken) :
    walkBytes sel tok = encode (walkInstr sel tok) := by cases tok <;> rfl

theorem decode_walkBytes (sel : List (Colour × Colour)) (tok : WalkToken) (rest : List Byte) :
    decode .stream (walkBytes sel tok ++ rest) = .ok (walkInstr sel tok) rest := by
  have hagree := decodeEncodeAgree (walkInstr sel tok) rest (by cases tok <;> rfl)
  have hsource : (walkInstr sel tok).source = .stream := by cases tok <;> rfl
  rwa [walkBytes_eq, ← hsource]

/-- The run byte of a run that fits a row gives its length back (30_encoding.md R89). -/
theorem runLength_ofNat {n : Nat} (h3 : 3 ≤ n) (h100 : n ≤ 100) : runLength (BitVec.ofNat 8 (n - 3)) = n := by
  rw [runLength, BitVec.toNat_ofNat]
  omega

/-- The operand of a pair's DIC names the dictionary entry that holds its key. -/
theorem getElem?_idxOf_key {sel : List (Colour × Colour)} {q : Colour × Colour} (hlen : sel.length ≤ 64)
    (hq : q ∈ sel) : sel[(BitVec.ofNat 6 (sel.idxOf q)).toNat]? = some q := by
  have hlt := List.idxOf_lt_length_of_mem hq
  rw [BitVec.toNat_ofNat, Nat.mod_eq_of_lt (by omega), List.getElem?_idxOf hq]

/-- Settles O37. -/
theorem walkBytesDecode : Obligations.WalkBytesDecode := fun sel rest hlen =>
  ⟨fun p _ => decode_walkBytes sel (.single p) rest, fun p _ => decode_walkBytes sel (.double p) rest,
    fun p n _ h3 h100 => ⟨_, runLength_ofNat h3 h100, decode_walkBytes sel (.run p n) rest⟩,
    fun a b hkey => ⟨_, getElem?_idxOf_key hlen hkey, decode_walkBytes sel (.pair a b) rest⟩⟩

end Sys2Proof.Machine
end

section
/-!
The tokens an ENCODE plans, in either mode (42_pixel_encoder.md R184, R189 to R192): they cover the image row by row, no
token leaves its row, and each is one that a decoder with the tables of the plan can read.
-/

namespace Sys2Proof.Machine

open Sys2Proof

/-! Tokens that can be read back. -/

/-- A walk token with its index below the number of colours, a run that fits a row, a pair whose key is selected. -/
def Readable (n : Nat) (sel : List (Colour × Colour)) : WalkToken → Prop
  | .single p => p < n
  | .double p => p < n
  | .run p k => p < n ∧ 3 ≤ k ∧ k ≤ 100
  | .pair a b => pairKey a b ∈ sel

theorem Readable.pixels_pos {n : Nat} {sel : List (Colour × Colour)} {tok : WalkToken} (h : Readable n sel tok)
    (pc : Nat → Colour) : 1 ≤ (walkPixels pc tok).length := by
  cases tok with
  | single | double | pair => simp [walkPixels]
  | run p k =>
    obtain ⟨-, h3, -⟩ := h
    simp only [walkPixels, List.length_replicate]
    omega

theorem Covers.readable {pc : Nat → Colour} {n : Nat} {sel : List (Colour × Colour)} {toks : List WalkToken}
    {row : List Nat} (h : Covers pc (fun a b => decide (pairKey a b ∈ sel)) toks row) (hrow : ∀ p ∈ row, p < n)
    (hlen : row.length ≤ 100) : ∀ tok ∈ toks, Readable n sel tok := by
  intro tok hmem
  obtain ⟨l, l', htakes, hsuffix⟩ := h.takes_of_mem hmem
  have hindex (p) (hp : p ∈ l) : p < n := hrow p (hsuffix.subset hp)
  cases htakes with
  | single p | double p => exact hindex p (by simp)
  | pair _ _ _ hkey => simpa [Readable] using hkey
  | run p k =>
    obtain ⟨h3, hle⟩ := h.run_bounds hmem
    exact ⟨hindex p (by simp; omega), h3, by omega⟩

/-! Tokens that keep to their rows. -/

/-- From pixel `c` on, no token of the list leaves the row it starts in. -/
def FitsRows (pc : Nat → Colour) : Nat → List WalkToken → Prop
  | _, [] => True
  | c, tok :: toks =>
    c % 100 + (walkPixels pc tok).length ≤ 100 ∧ FitsRows pc (c + (walkPixels pc tok).length) toks

theorem FitsRows.append {pc : Nat → Colour} {c : Nat} {xs ys : List WalkToken} (hx : FitsRows pc c xs)
    (hy : FitsRows pc (c + (xs.flatMap (walkPixels pc)).length) ys) : FitsRows pc c (xs ++ ys) := by
  induction xs generalizing c with
  | nil => exact hy
  | cons tok xs ih =>
    obtain ⟨htok, hx⟩ := hx
    refine ⟨htok, ih hx ?_⟩
    rwa [List.flatMap_cons, List.length_append, ← Nat.add_assoc] at hy

/-- Tokens whose pixels all fit one row keep to it. -/
theorem fitsRows_of_row {pc : Nat → Colour} {c : Nat} {toks : List WalkToken}
    (h : c % 100 + (toks.flatMap (walkPixels pc)).length ≤ 100) : FitsRows pc c toks := by
  induction toks generalizing c with
  | nil => trivial
  | cons tok toks ih =>
    rw [List.flatMap_cons, List.length_append] at h
    exact ⟨by omega, ih (by omega)⟩

/-- Rows of 100 pixels each keep to the rows of the image. -/
theorem fitsRows_of_rows {pc : Nat → Colour} {rows : Nat → List WalkToken}
    (h : ∀ y, ((rows y).flatMap (walkPixels pc)).length = 100) (n : Nat) :
    FitsRows pc 0 ((List.range n).flatMap rows) ∧
      (((List.range n).flatMap rows).flatMap (walkPixels pc)).length = 100 * n := by
  induction n with
  | zero => exact ⟨trivial, rfl⟩
  | succ n ih =>
    obtain ⟨hfits, hlen⟩ := ih
    simp only [List.range_succ, List.flatMap_append, List.flatMap_singleton, List.length_append, hlen, h]
    refine ⟨hfits.append (fitsRows_of_row ?_), by omega⟩
    rw [hlen, h]
    omega

/-! The tokens of a plan. -/

/-- The tokens of row `y`: in ENC_MODE 1 those of pass 2 (R191), in ENC_MODE 0 one SGL per pixel (R184). -/
def State.planRow (s : State) (y : Nat) : List WalkToken :=
  if s.mode then walkRow s.palColour (fun a b => decide (pairKey a b ∈ s.makePlan.sel)) 100 (s.gridRow y)
  else (s.gridRow y).map .single

/-- The tokens of the image, row after row. -/
def State.planTokens (s : State) : List WalkToken := (List.range 50).flatMap s.planRow

theorem singles_cover (pc : Nat → Colour) (allow : Colour → Colour → Bool) (row : List Nat) :
    Covers pc allow (row.map .single) row := by
  induction row with
  | nil => exact .nil
  | cons p rest ih => exact .cons (.single p rest) ih

theorem State.planRow_covers (s : State) (y : Nat) :
    Covers s.palColour (fun a b => decide (pairKey a b ∈ s.makePlan.sel)) (s.planRow y) (s.gridRow y) := by
  unfold State.planRow
  split
  · exact walkRow_covers _ _ (gridRow_length s y).le
  · exact singles_cover _ _ _

theorem State.planRow_pixels (s : State) (y : Nat) :
    (s.planRow y).flatMap (walkPixels s.palColour) = (s.gridRow y).map s.palColour := (s.planRow_covers y).pixels

/-- The rows of 100 numbers are the numbers in order. -/
theorem range_rows (n : Nat) : (List.range n).flatMap (fun y => List.range' (100 * y) 100) = List.range (100 * n) := by
  induction n with
  | zero => rfl
  | succ n ih =>
    rw [List.range_succ, List.flatMap_append, List.flatMap_singleton, ih, Nat.mul_succ, List.range_eq_range',
      List.range_eq_range', ← List.range'_append_1, Nat.zero_add]

theorem State.gridRows (s : State) : (List.range 50).flatMap s.gridRow = (List.range 5000).map s.index := by
  rw [← range_rows 50, List.map_flatMap]
  rfl

theorem State.planTokens_greedy {s : State} (h : s.mode = true) :
    s.planTokens = s.walk fun a b => decide (pairKey a b ∈ s.greedyKeys) := by
  have hrow (y : Nat) : s.planRow y =
      walkRow s.palColour (fun a b => decide (pairKey a b ∈ s.greedyKeys)) 100 (s.gridRow y) := by
    rw [State.planRow, if_pos h, State.makePlan_greedy h]
    rfl
  exact List.flatMap_congr fun y _ => hrow y

theorem State.planTokens_degenerate {s : State} (h : s.mode = false) :
    s.planTokens = ((List.range 5000).map s.index).map .single := by
  have hrow (y : Nat) : s.planRow y = (s.gridRow y).map .single := by simp [State.planRow, h]
  rw [State.planTokens, List.flatMap_congr fun y _ => hrow y, ← List.map_flatMap, State.gridRows]

theorem walkFlips_singles (l : List Nat) : walkFlips (l.map .single) = [] := by
  induction l with
  | nil => rfl
  | cons p l ih => exact ih

theorem State.makePlan_flips (s : State) : s.makePlan.flips = walkFlips s.planTokens := by
  cases h : s.mode with
  | true => rw [State.makePlan_greedy h, State.planTokens_greedy h]; rfl
  | false => rw [State.makePlan_degenerate h, State.planTokens_degenerate h, walkFlips_singles]; rfl

theorem State.makePlan_body (s : State) : s.makePlan.body = s.planTokens.flatMap (walkBytes s.makePlan.sel) := by
  cases h : s.mode with
  | true => rw [State.makePlan_greedy h, State.planTokens_greedy h]; rfl
  | false =>
    rw [State.makePlan_degenerate h, State.planTokens_degenerate h]
    simp only [State.degeneratePlan, List.flatMap_map, walkBytes]

theorem State.makePlan_sel_length (s : State) : s.makePlan.sel.length ≤ 64 := by
  cases h : s.mode with
  | true => rw [State.makePlan_greedy h]; exact selectKeys_length_le _
  | false => rw [State.makePlan_degenerate h]; exact Nat.zero_le _

/-- The tokens of a plan stand for the image, pixel by pixel (R189). -/
theorem State.planTokens_pixels (s : State) :
    s.planTokens.flatMap (walkPixels s.palColour) = (List.range 5000).map fun k => s.palColour (s.index k) := by
  rw [State.planTokens, List.flatMap_assoc, List.flatMap_congr fun y _ => s.planRow_pixels y, ← List.map_flatMap,
    State.gridRows, List.map_map]
  rfl

theorem State.planTokens_fit (s : State) : FitsRows s.palColour 0 s.planTokens :=
  (fitsRows_of_rows (fun y => by rw [State.planRow_pixels, List.length_map, gridRow_length]) 50).1

theorem State.planTokens_readable {s : State} (h : RasterOk s) :
    ∀ tok ∈ s.planTokens, Readable s.palCount.toNat s.makePlan.sel tok := by
  intro tok hmem
  obtain ⟨y, hy, hmem⟩ := List.mem_flatMap.1 hmem
  refine (s.planRow_covers y).readable (fun p hp => ?_) (gridRow_length s y).le tok hmem
  obtain ⟨k, hk, rfl⟩ := List.mem_map.1 hp
  obtain ⟨-, -, hidx⟩ := h
  exact hidx k (by simp at hy hk; omega)

/-- The tokens `toks` stand for the whole image, and the flip bits and token bytes of a plan are theirs: `pc` are the
colours of the `n` indices (R191, R192). -/
structure Renders (plan : EncodePlan) (pc : Nat → Colour) (n : Nat) (toks : List WalkToken) : Prop where
  body : plan.body = toks.flatMap (walkBytes plan.sel)
  flips : plan.flips = walkFlips toks
  sel : plan.sel.length ≤ 64
  pixels : (toks.flatMap (walkPixels pc)).length = 5000
  rows : FitsRows pc 0 toks
  readable : ∀ tok ∈ toks, Readable n plan.sel tok

theorem State.makePlan_renders {s : State} (h : RasterOk s) :
    Renders s.makePlan s.palColour s.palCount.toNat s.planTokens where
  body := s.makePlan_body
  flips := s.makePlan_flips
  sel := s.makePlan_sel_length
  pixels := by rw [s.planTokens_pixels, List.length_map, List.length_range]
  rows := s.planTokens_fit
  readable := State.planTokens_readable h

end Sys2Proof.Machine
end

section
/-!
The run of an ENCODE whose input passes VALIDATE: START, five section steps and the end, after which OUT holds the
stream of the plan (42_pixel_encoder.md R181, R191).
-/

namespace Sys2Proof.Machine

open Sys2Proof

/-- A START value that the host writes next is the instruction the next step runs. -/
theorem stepEffect_start {s : State} {c : BitVec 3} {m k : Bool} {q : List HostEvent}
    (hq : s.hostQ = .write .w32 0#32 (startWord c m k) :: q) : stepEffect s = effect (startedCommand c m k) s := by
  have hrequest : (HostEvent.write .w32 0#32 (startWord c m k)).startRequest = some (startedCommand c m k) :=
    decodeCommand_startWord c m k
  simp only [stepEffect, hq, hrequest]

/-! The stream of a plan. -/

/-- A memory holds the sections of a plan one after another, as a decoder reads them: the colours `pc` of the first `n`
color-table entries, the dictionary, the flip length, the flip bits and the token bytes. -/
structure HoldsStream (m : Memory) (pc : Nat → Colour) (n : Nat) (plan : EncodePlan) : Prop where
  colours : ∀ k, k < n → colour (m.readHalf (2 * k)) = pc k
  lefts : ∀ j, j < 64 → colour (m.readHalf (128 + 4 * j)) = (plan.sel.getD j (0#15, 0#15)).1
  rights : ∀ j, j < 64 → colour (m.readHalf (128 + 4 * j + 2)) = (plan.sel.getD j (0#15, 0#15)).2
  flipLength : (m.readHalf 384).toNat = 2 + flipByteCount plan.flips
  flips : ∀ i, i < plan.flips.length → (m.read (386 + i / 8)).getLsbD (i % 8) = plan.flips.getD i false
  body : ∀ i, (h : i < plan.body.length) → m.read (386 + flipByteCount plan.flips + i) = plan.body[i]

/-- The number of bytes of a plan's stream (R193). -/
def EncodePlan.size (plan : EncodePlan) : Nat := 386 + flipByteCount plan.flips + plan.body.length

theorem Memory.readHalf_congr {m m' : Memory} {a : Nat} (h0 : m'.read a = m.read a)
    (h1 : m'.read (a + 1) = m.read (a + 1)) : m'.readHalf a = m.readHalf a := by
  rw [Memory.readHalf, h0, h1, Memory.readHalf]

/-- A copy of the stream holds it too. -/
theorem HoldsStream.copy {m m' : Memory} {pc : Nat → Colour} {n : Nat} {plan : EncodePlan} (h : HoldsStream m pc n plan)
    (hn : n ≤ 64) (hcopy : ∀ a, a < plan.size → m'.read a = m.read a) : HoldsStream m' pc n plan := by
  have hhalf (a : Nat) (ha : a < 385) : m'.readHalf a = m.readHalf a :=
    Memory.readHalf_congr (hcopy a (by rw [EncodePlan.size]; omega)) (hcopy (a + 1) (by rw [EncodePlan.size]; omega))
  constructor
  case colours => exact fun k hk => by rw [hhalf _ (by omega)]; exact h.colours k hk
  case lefts => exact fun j hj => by rw [hhalf _ (by omega)]; exact h.lefts j hj
  case rights => exact fun j hj => by rw [hhalf _ (by omega)]; exact h.rights j hj
  case flipLength => rw [hhalf _ (by omega)]; exact h.flipLength
  case flips =>
    intro i hi
    rw [hcopy _ (by rw [EncodePlan.size, flipByteCount]; omega)]
    exact h.flips i hi
  case body =>
    intro i hi
    rw [hcopy _ (by rw [EncodePlan.size]; omega)]
    exact h.body i hi

/-! OUT after the five sections. -/

/-- OUT with the sections of a plan written one after another (40_table_codecs.md R113, R119, R125; R191). -/
def State.encodedOut (s : State) (plan : EncodePlan) : Memory :=
  ((((s.outMem.writeBytes 0 s.tableBytes).writeBytes 128 (dictBytes plan.sel)).writeHalf 384
    (flipLength plan.flips)).writeBytes 386 (flipBytes plan.flips)).writeBytes
      (386 + flipByteCount plan.flips) plan.body

theorem colour_colourWord (c : Colour) : colour (colourWord c) = c := by
  rw [colour, colourWord, BitVec.setWidth_setWidth_of_le _ (by omega), BitVec.setWidth_eq]

theorem State.colour_palWord (s : State) (k : Nat) :
    colour (s.palMem.readHalf (2 * k) &&& 0x7FFF#16) = s.palColour k := by
  rw [← State.colourWord_palColour, colour_colourWord]

/-- A table word lies before the flip table, which leaves it alone. -/
theorem State.readHalf_encodedOut (s : State) (plan : EncodePlan) {a : Nat} (ha : a + 2 ≤ 384) :
    (s.encodedOut plan).readHalf a =
      ((s.outMem.writeBytes 0 s.tableBytes).writeBytes 128 (dictBytes plan.sel)).readHalf a := by
  rw [State.encodedOut, Memory.readHalf_writeBytes_outside _ _ _ (by omega),
    Memory.readHalf_writeBytes_outside _ _ _ (by omega), Memory.writeHalf,
    Memory.readHalf_writeBytes_outside _ _ _ (by omega)]

/-- Word `k` of the dictionary section in OUT. -/
theorem State.readHalf_encodedOut_dict (s : State) (plan : EncodePlan) {k : Nat} (hk : k < 128) :
    (s.encodedOut plan).readHalf (128 + 2 * k) = dictWord plan.sel k := by
  rw [s.readHalf_encodedOut plan (by omega), Memory.readHalf_dictBytes _ _ _ hk]

theorem State.encodedOut_holds {s : State} {plan : EncodePlan} (hcount : s.palCount.toNat ≤ 64)
    (hflips : flipByteCount plan.flips ≤ 5000) :
    HoldsStream (s.encodedOut plan) s.palColour s.palCount.toNat plan := by
  constructor
  case colours =>
    intro k hk
    rw [s.readHalf_encodedOut plan (by omega), Memory.readHalf_writeBytes_outside _ _ _ (by omega),
      s.readHalf_tableBytes _ (by omega), if_pos hk, State.colour_palWord]
  case lefts =>
    intro j hj
    rw [show 128 + 4 * j = 128 + 2 * (2 * j) by omega, s.readHalf_encodedOut_dict plan (by omega), dictWord_left,
      colour_colourWord]
  case rights =>
    intro j hj
    rw [show 128 + 4 * j + 2 = 128 + 2 * (2 * j + 1) by omega, s.readHalf_encodedOut_dict plan (by omega),
      dictWord_right, colour_colourWord]
  case flipLength =>
    rw [State.encodedOut, Memory.readHalf_writeBytes_outside _ _ _ (by omega),
      Memory.readHalf_writeBytes_outside _ _ _ (by omega), Memory.readHalf_writeHalf, Sys2Proof.Machine.flipLength,
      BitVec.toNat_ofNat]
    omega
  case flips =>
    intro i hi
    have hbyte : i / 8 < flipByteCount plan.flips := by rw [flipByteCount]; omega
    rw [State.encodedOut, Memory.read_writeBytes_outside _ _ _ (by omega), Memory.read_flipBytes _ _ _ hbyte,
      flipByte_getLsbD _ _ (Nat.mod_lt _ (by omega)), Nat.div_add_mod]
  case body => exact fun i hi => Memory.read_writeBytes_inside _ _ _ hi

/-! The run. -/

/-- The next state of a running ENCODE, by its phase: `stepEffect_encoding`. -/
def State.encodeStep (s : State) : Phase → State
  | .idle => s
  | .ct => s.ctWrite
  | .dict => s.dictWrite
  | .flen => s.flenWrite
  | .fbits => s.fbitsWrite
  | .pixels => s.bodyWrite
  | .ending => s.finishEncode

theorem stepEffect_encoding {s : State} (ph : Phase) (hp : s.phase = ph) (hq : s.hostQ = []) (he : s.encoding = true) :
    stepEffect s = s.encodeStep ph := by
  rw [stepEffect_silent hq, engineEffect, hp]
  cases ph <;> simp only [he, if_true, State.encodeStep]

/-- A running ENCODE of a silent host stays one. -/
theorem encodeStep_silent {s : State} {ph : Phase} (hp : s.phase = ph) (hq : s.hostQ = []) (he : s.encoding = true) :
    (s.encodeStep ph).hostQ = [] ∧ (s.encodeStep ph).encoding = true := by
  have hmove := engineEffect_move s
  rw [← stepEffect_silent hq, stepEffect_encoding ph hp hq he] at hmove
  obtain ⟨_, _, _, _, _, _, hcmd, _⟩ := hmove.frame
  rw [hmove.hostQ, State.encoding, hcmd]
  exact ⟨hq, he⟩

/-- The five section steps of a running ENCODE. -/
theorem stepEffect_encode_sections {s : State} (hp : s.phase = .ct) (hq : s.hostQ = []) (he : s.encoding = true) :
    stepEffect^[5] s = { s with
      outMem := s.encodedOut s.plan
      pos := s.plan.size
      fcur := s.plan.flips.length
      flipL := flipLength s.plan.flips
      phase := .ending } := by
  obtain ⟨hq1, he1⟩ := encodeStep_silent hp hq he
  obtain ⟨hq2, he2⟩ := encodeStep_silent (ph := .dict) rfl hq1 he1
  obtain ⟨hq3, he3⟩ := encodeStep_silent (ph := .flen) rfl hq2 he2
  obtain ⟨hq4, he4⟩ := encodeStep_silent (ph := .fbits) rfl hq3 he3
  rw [Function.iterate_succ_apply, stepEffect_encoding .ct hp hq he,
    Function.iterate_succ_apply, stepEffect_encoding .dict rfl hq1 he1,
    Function.iterate_succ_apply, stepEffect_encoding .flen rfl hq2 he2,
    Function.iterate_succ_apply, stepEffect_encoding .fbits rfl hq3 he3,
    Function.iterate_succ_apply, stepEffect_encoding .pixels rfl hq4 he4, Function.iterate_zero_apply]
  simp only [State.encodeStep, State.bodyWrite_eq, State.flipWrite_eq, State.dictWrite_eq, State.ctWrite_eq,
    State.encodedOut, EncodePlan.size]

/-- What an ENCODE of a valid raster leaves behind: success, and in OUT the stream of its plan. -/
theorem encode_run {s : State} {m k : Bool} (hb : s.busy = false) (hu : s.undisturbed) (hr : RasterOk s)
    (hq : s.hostQ = [.write .w32 0#32 (startWord cmdEncode m k)]) {plan : EncodePlan}
    (hplan : plan = (s.nextEvent.start cmdEncode m k).makePlan) :
    (stepEffect^[7] s).phase = .idle ∧ (stepEffect^[7] s).status = 0x2#32 ∧
      (stepEffect^[7] s).outLen = BitVec.ofNat 32 plan.size ∧
      HoldsStream (stepEffect^[7] s).outMem s.palColour s.palCount.toNat plan := by
  have hstart : stepEffect s = s.running cmdEncode m k plan := by
    rw [stepEffect_start hq, hplan]
    exact startCommand_checkRaster hb hr cmdEncode m k
  have hsilent : (s.running cmdEncode m k plan).hostQ = [] := by simp [State.running, hq]
  have hsections := stepEffect_encode_sections (s := s.running cmdEncode m k plan) rfl hsilent rfl
  have hend := stepEffect_encoding (s := stepEffect^[5] (s.running cmdEncode m k plan)) .ending (by rw [hsections])
    (by rw [hsections]; exact hsilent) (by rw [hsections]; rfl)
  have hrun : stepEffect^[7] s = (stepEffect^[5] (s.running cmdEncode m k plan)).finishEncode := by
    rw [Function.iterate_succ_apply, hstart, Function.iterate_succ_apply', hend, State.encodeStep]
  obtain ⟨hphase, hstatus, hlen, -, -, -, -, hout, -⟩ :=
    State.finishEncode_reported (s := stepEffect^[5] (s.running cmdEncode m k plan)) (by rw [hsections]; exact hu)
  rw [← hrun] at hphase hstatus hlen hout
  rw [hsections] at hlen hout
  have hfits : flipByteCount plan.flips + plan.body.length ≤ 5000 := hplan ▸ State.makePlan_fits _
  obtain ⟨-, hcount, -⟩ := hr
  refine ⟨hphase, hstatus, hlen, ?_⟩
  rw [hout]
  exact State.encodedOut_holds (s := s.running cmdEncode m k plan) (plan := plan) hcount (by omega)

end Sys2Proof.Machine
end

section
/-!
The run of a DECODE over the stream of a plan: the tables are loaded, each token of the plan is fetched as it was
written and paints its pixels, and the command ends at pixel 5000 with the stream used up (41_pixel_decoder.md R140 to R153).
-/

namespace Sys2Proof.Machine

open Sys2Proof

/-! What lies ahead of a cursor. -/

theorem walkFlips_cons (tok : WalkToken) (toks : List WalkToken) :
    walkFlips (tok :: toks) = walkFlips [tok] ++ walkFlips toks := walkFlips_append [tok] toks

/-- From place `k` on, `f` gives the elements of the list. -/
def Gives {α : Type} (f : Nat → α) (k : Nat) (l : List α) : Prop := ∀ i b, l[i]? = some b → f (k + i) = b

theorem gives_of_getElem {α : Type} {f : Nat → α} {k : Nat} {l : List α}
    (h : ∀ i, (hi : i < l.length) → f (k + i) = l[i]) : Gives f k l := by
  intro i b hb
  obtain ⟨hi, rfl⟩ := List.getElem?_eq_some_iff.1 hb
  exact h i hi

theorem Gives.left {α : Type} {f : Nat → α} {k : Nat} {xs ys : List α} (h : Gives f k (xs ++ ys)) : Gives f k xs := by
  intro i b hb
  obtain ⟨hi, -⟩ := List.getElem?_eq_some_iff.1 hb
  exact h i b (by rw [List.getElem?_append_left hi, hb])

theorem Gives.right {α : Type} {f : Nat → α} {k : Nat} {xs ys : List α} (h : Gives f k (xs ++ ys)) :
    Gives f (k + xs.length) ys := by
  intro i b hb
  rw [Nat.add_assoc]
  exact h _ b (by rw [List.getElem?_append_right (by omega), Nat.add_sub_cancel_left, hb])

theorem Gives.head {α : Type} {f : Nat → α} {k : Nat} {x : α} {xs : List α} (h : Gives f k (x :: xs)) : f k = x :=
  h 0 x rfl

/-- The fetch takes the next two bytes of the stream, or those that are left (10_state.md R35). -/
theorem State.tokenBytes_eq {s : State} {l : List Byte} (hlen : s.len = s.pos + l.length) (h : Gives s.inByte s.pos l) :
    s.tokenBytes = l.take 2 := by
  match l with
  | [] => simp [State.tokenBytes, State.hasByte, hlen]
  | [b] => simp [State.tokenBytes, State.hasByte, hlen, h.head]
  | b :: c :: rest =>
    have hc : s.inByte (s.pos + 1) = c := h 1 c rfl
    simp [State.tokenBytes, State.hasByte, hlen, h.head, hc]

theorem walkBytes_length_le (sel : List (Colour × Colour)) (tok : WalkToken) : (walkBytes sel tok).length ≤ 2 := by
  cases tok <;> simp [walkBytes, encode]

/-- Where the stream goes on with the bytes of a walk token, the fetch gives its token. -/
theorem State.fetch_walkBytes {s : State} {sel : List (Colour × Colour)} {tok : WalkToken} {more : List Byte}
    (hlen : s.len = s.pos + (walkBytes sel tok ++ more).length) (h : Gives s.inByte s.pos (walkBytes sel tok ++ more)) :
    ∃ rest, decode .stream s.tokenBytes = .ok (walkInstr sel tok) rest := by
  rw [State.tokenBytes_eq hlen h, List.take_append, List.take_of_length_le (walkBytes_length_le sel tok)]
  exact ⟨_, decode_walkBytes sel tok _⟩

/-! One token. -/

/-- The tables of a DECODE hold the colours `pc` and the dictionary `sel` of an ENCODE. -/
structure HoldsTables (s : State) (pc : Nat → Colour) (n : Nat) (sel : List (Colour × Colour)) : Prop where
  colours : ∀ p, p < n → entry s.ct (BitVec.ofNat 6 p) = pc p
  pairs : ∀ (j : BitVec 6) (q : Colour × Colour), sel[j.toNat]? = some q → entry s.dl j = q.1 ∧ entry s.dr j = q.2

/-- Pixels painted and cursors moved, nothing else changed (41_pixel_decoder.md R146). -/
def State.advance (s : State) (ps : List Colour) (size d : Nat) : State :=
  { s with
    pixMem := s.pixMem.writeBytes (2 * s.count) (pixelBytes ps)
    count := s.count + ps.length
    pos := s.pos + size
    fcur := s.fcur + d }

theorem pixelBytes_append (ps qs : List Colour) : pixelBytes (ps ++ qs) = pixelBytes ps ++ pixelBytes qs :=
  List.flatMap_append

theorem State.advance_advance (s : State) (ps qs : List Colour) (a b d e : Nat) :
    (s.advance ps a d).advance qs b e = s.advance (ps ++ qs) (a + b) (d + e) := by
  simp only [State.advance, pixelBytes_append, Memory.writeBytes_append, pixelBytes_length, List.length_append,
    Nat.mul_add, Nat.add_assoc]

theorem State.paint_eq_advance (size : Nat) (ps : List Colour) (s : State) : s.paint size ps = s.advance ps size 0 :=
  State.paint_eq size ps s

theorem State.advance_pixel (s : State) (ps : List Colour) (size d : Nat) {k : Nat} (hk : k < ps.length) :
    (s.advance ps size d).pixel (s.count + k) = (ps[k]).setWidth 16 := by
  rw [← s.paint_pixel size ps hk, State.paint_eq_advance]
  rfl

/-- A pair's key, ordered by its flip bit, is the pair (42_pixel_encoder.md R188). -/
theorem State.pair_of_key {s : State} {j : BitVec 6} {a b : Colour} (hl : entry s.dl j = (pairKey a b).1)
    (hr : entry s.dr j = (pairKey a b).2) : s.pair j (pairFlip a b) = [a, b] := by
  rw [State.pair, hl, hr]
  cases h : pairFlip a b with
  | true => rw [pairKey_of_flip h]; rfl
  | false => rw [pairKey_of_not_flip h]; rfl

/-- DECODE paints the pixels a readable walk token stands for. -/
theorem effect_walkInstr {s : State} {pc : Nat → Colour} {n : Nat} {sel : List (Colour × Colour)} {tok : WalkToken}
    (hs : s.sniffing = false) (ht : HoldsTables s pc n sel) (hsel : sel.length ≤ 64) (hok : Readable n sel tok)
    (hrow : s.column + (walkPixels pc tok).length ≤ 100) (hflips : Gives s.flipBit s.fcur (walkFlips [tok]))
    (hsupply : s.fcur + (walkFlips [tok]).length ≤ 8 * s.nfb) :
    effect (walkInstr sel tok) s =
      s.advance (walkPixels pc tok) (walkBytes sel tok).length (walkFlips [tok]).length := by
  cases tok with
  | single p =>
    rw [walkInstr, effect_sgl hs, ht.colours p hok, State.paint_eq_advance]
    rfl
  | double p =>
    rw [walkInstr, effect_dbl hs, ht.colours p hok, State.paintInRow_fits 1 [pc p, pc p] s hrow, State.paint_eq_advance]
    rfl
  | run p k =>
    obtain ⟨hp, h3, h100⟩ := hok
    rw [walkInstr, effect_run hs, ht.colours p hp, runLength_ofNat h3 h100,
      State.paintInRow_fits 2 (List.replicate k (pc p)) s hrow, State.paint_eq_advance]
    rfl
  | pair a b =>
    obtain ⟨hl, hr⟩ := ht.pairs _ _ (getElem?_idxOf_key hsel hok)
    have hflip : s.flipBit s.fcur = pairFlip a b := hflips.head
    have hrow2 : s.column + 2 ≤ 100 := hrow
    have hsupply1 : s.fcur + 1 ≤ 8 * s.nfb := hsupply
    rw [walkInstr, effect_dic hs]
    rcases s.paintPair_cases (BitVec.ofNat 6 (sel.idxOf (pairKey a b))) with ⟨-, -, h⟩ | ⟨hover, -⟩ | ⟨-, hout, -⟩
    · rw [h, hflip, State.pair_of_key hl hr, State.paint_eq_advance]
      rfl
    · omega
    · omega

/-! The tokens of the stream. -/

/-- A DECODE stands in its stream before the tokens `toks`, the rest of the image: `pc`, `n` and `sel` are the colours,
their number and the dictionary of the ENCODE that wrote it. -/
structure Ahead (pc : Nat → Colour) (n : Nat) (sel : List (Colour × Colour)) (s : State) (toks : List WalkToken) :
    Prop where
  silent : s.hostQ = []
  phase : s.phase = .pixels
  cmd : s.cmd = cmdDecode
  tables : HoldsTables s pc n sel
  bytes : Gives s.inByte s.pos (toks.flatMap (walkBytes sel))
  len : s.len = s.pos + (toks.flatMap (walkBytes sel)).length
  flips : Gives s.flipBit s.fcur (walkFlips toks)
  supply : s.fcur + (walkFlips toks).length ≤ 8 * s.nfb
  pixels : s.count + (toks.flatMap (walkPixels pc)).length = 5000
  rows : FitsRows pc s.count toks
  readable : ∀ tok ∈ toks, Readable n sel tok

/-- A DECODE has ended with success, nothing trailing, and PIX holds these pixels, bit 15 zero (R140, R142). -/
structure DecodedTo (v : State) (ps : List Colour) : Prop where
  phase : v.phase = .idle
  status : v.status = 0x2#32
  pixCount : v.pixCount = 5000#32
  pixels : ∀ p, (hp : p < ps.length) → v.pixel p = (ps[p]).setWidth 16

section
variable {pc : Nat → Colour} {n : Nat} {sel : List (Colour × Colour)} {s : State} {tok : WalkToken}
  {toks : List WalkToken}

theorem Ahead.encoding (h : Ahead pc n sel s toks) : s.encoding = false := by rw [State.encoding, h.cmd]; rfl

theorem Ahead.sniffing (h : Ahead pc n sel s toks) : s.sniffing = false := by rw [State.sniffing, h.cmd]; rfl

/-- A token's step paints its pixels. -/
theorem Ahead.step (h : Ahead pc n sel s (tok :: toks)) (hsel : sel.length ≤ 64) :
    stepEffect s = s.advance (walkPixels pc tok) (walkBytes sel tok).length (walkFlips [tok]).length := by
  obtain ⟨hq, hp, _, ht, hbytes, hlen, hflips, hsupply, hpixels, ⟨hrow, _⟩, hread⟩ := id h
  have hok := hread tok (List.mem_cons_self ..)
  have hpos := hok.pixels_pos pc
  rw [List.flatMap_cons] at hbytes hlen hpixels
  rw [walkFlips_cons] at hflips hsupply
  rw [List.length_append] at hpixels hsupply
  obtain ⟨rest, hfetch⟩ := State.fetch_walkBytes hlen hbytes
  rw [stepEffect_silent hq, engineEffect_token hp h.encoding (by omega) hfetch]
  exact effect_walkInstr h.sniffing ht hsel hok hrow hflips.left (by omega)

/-- After a token's step the DECODE stands before the tokens that follow. -/
theorem Ahead.next (h : Ahead pc n sel s (tok :: toks)) :
    Ahead pc n sel (s.advance (walkPixels pc tok) (walkBytes sel tok).length (walkFlips [tok]).length) toks := by
  obtain ⟨hq, hp, hc, ⟨hcolours, hpairs⟩, hbytes, hlen, hflips, hsupply, hpixels, ⟨_, hrows⟩, hread⟩ := h
  rw [List.flatMap_cons] at hbytes hlen hpixels
  rw [walkFlips_cons] at hflips hsupply
  rw [List.length_append] at hlen hpixels hsupply
  exact ⟨hq, hp, hc, ⟨hcolours, hpairs⟩, hbytes.right, by dsimp only [State.advance]; omega, hflips.right,
    by dsimp only [State.advance]; omega, by dsimp only [State.advance]; omega, hrows,
    fun t ht => hread t (List.mem_cons_of_mem _ ht)⟩

/-- The token loop paints the rest of the image. -/
theorem Ahead.run (h : Ahead pc n sel s toks) (hsel : sel.length ≤ 64) :
    stepEffect^[toks.length] s =
        s.advance (toks.flatMap (walkPixels pc)) (toks.flatMap (walkBytes sel)).length (walkFlips toks).length ∧
      Ahead pc n sel (stepEffect^[toks.length] s) [] := by
  induction toks generalizing s with
  | nil => exact ⟨rfl, h⟩
  | cons tok toks ih =>
    obtain ⟨hrest, hend⟩ := ih h.next
    rw [List.length_cons, Function.iterate_succ_apply, h.step hsel]
    refine ⟨?_, hend⟩
    rw [hrest, State.advance_advance, walkFlips_cons tok toks]
    simp only [List.flatMap_cons, List.length_append]

/-- At pixel 5000 with the stream used up a DECODE ends with success, nothing trailing (R140, R163). -/
theorem Ahead.finish (h : Ahead pc n sel s []) (hu : s.undisturbed) :
    (stepEffect^[2] s).phase = .idle ∧ (stepEffect^[2] s).status = 0x2#32 ∧ (stepEffect^[2] s).pixCount = 5000#32 ∧
      (stepEffect^[2] s).pixMem = s.pixMem := by
  have hcount : s.count = 5000 := h.pixels
  have hlen : s.len = s.pos := h.len
  have hloop : stepEffect s = { s with phase := .ending } := by
    rw [stepEffect_silent h.silent, engineEffect_pixels h.phase h.encoding, tokenEffect_at_end hcount.ge]
  have hend : stepEffect { s with phase := .ending } = State.finishDecode { s with phase := .ending } :=
    (stepEffect_silent (s := { s with phase := .ending }) h.silent).trans
      (engineEffect_ending rfl h.encoding h.sniffing)
  rw [Function.iterate_succ_apply, hloop, Function.iterate_one, hend, State.finishDecode,
    State.complete_undisturbed _ _ (by exact hu), success_status]
  exact ⟨rfl, by simp [hlen], by simp [hcount], rfl⟩

/-- From its first token on, a DECODE paints the whole image and ends with success. -/
theorem Ahead.image (h : Ahead pc n sel s toks) (hsel : sel.length ≤ 64) (hu : s.undisturbed) (hcount : s.count = 0) :
    DecodedTo (stepEffect^[2 + toks.length] s) (toks.flatMap (walkPixels pc)) := by
  obtain ⟨hrun, hend⟩ := h.run hsel
  rw [Function.iterate_add_apply]
  obtain ⟨hphase, hstatus, hpix, hmem⟩ := hend.finish (by rw [hrun]; exact hu)
  refine ⟨hphase, hstatus, hpix, fun p hp => ?_⟩
  have hpixel := s.advance_pixel _ (toks.flatMap (walkBytes sel)).length (walkFlips toks).length hp
  rw [hcount, Nat.zero_add, ← hrun] at hpixel
  rwa [State.pixel, hmem]

end

/-! The whole run. -/

/-- A DECODE with its four table sections read (40_table_codecs.md R112, R118, R120, R122). -/
def State.tablesRead (s : State) : State :=
  { s with
    ct := Vector.ofFn (fun k => colour (s.inHalf (2 * k.val)))
    dl := Vector.ofFn (fun j => colour (s.inHalf (128 + 4 * j.val)))
    dr := Vector.ofFn (fun j => colour (s.inHalf (128 + 4 * j.val + 2)))
    flipL := s.inHalf 384
    nfb := (s.inHalf 384).toNat - 2
    pos := 386 + ((s.inHalf 384).toNat - 2)
    phase := .pixels }

/-- The next state of a running DECODE whose table section is there, by its phase: `stepEffect_tableStep`. -/
def State.tableStep (s : State) : Phase → State
  | .ct => { s with ct := Vector.ofFn (fun k => colour (s.inHalf (2 * k.val))), pos := 128, phase := .dict }
  | .dict =>
    { s with
      dl := Vector.ofFn (fun j => colour (s.inHalf (128 + 4 * j.val)))
      dr := Vector.ofFn (fun j => colour (s.inHalf (128 + 4 * j.val + 2)))
      pos := 384
      phase := .flen }
  | .flen => { s with flipL := s.inHalf 384, nfb := (s.inHalf 384).toNat - 2, pos := 386, phase := .fbits }
  | .fbits => { s with pos := 386 + s.nfb, phase := .pixels }
  | _ => s

theorem stepEffect_tableStep {s : State} {ph : Phase} (hp : s.phase = ph)
    (htable : ph = .ct ∨ ph = .dict ∨ ph = .flen ∨ ph = .fbits) (hq : s.hostQ = []) (hc : s.cmd = cmdDecode)
    (hflip : 2 ≤ (s.inHalf 384).toNat) (hlen : (s.tableStep ph).pos ≤ s.len) : stepEffect s = s.tableStep ph := by
  have he : s.encoding = false := by rw [State.encoding, hc]; rfl
  have hs : s.sniffing = false := by rw [State.sniffing, hc]; rfl
  rw [stepEffect_silent hq, engineEffect, hp]
  rcases htable with rfl | rfl | rfl | rfl <;> simp only [State.tableStep] at hlen ⊢
  · simp only [he, hs, State.ctRead, if_neg (Nat.not_lt.2 hlen), Bool.false_eq_true, if_false]
  · simp only [he, hs, State.dictRead, if_neg (Nat.not_lt.2 hlen), Bool.false_eq_true, if_false]
  · simp only [he, State.flenRead, if_neg (Nat.not_lt.2 hlen), if_neg (Nat.not_lt.2 hflip), Bool.false_eq_true,
      if_false]
  · simp only [he, State.fbitsRead, if_neg (Nat.not_lt.2 hlen), Bool.false_eq_true, if_false]

/-- The four table sections of a DECODE of a stream that holds them. -/
theorem stepEffect_tables {s : State} (hp : s.phase = .ct) (hq : s.hostQ = []) (hc : s.cmd = cmdDecode)
    (hflip : 2 ≤ (s.inHalf 384).toNat) (hlen : 386 + ((s.inHalf 384).toNat - 2) ≤ s.len) :
    stepEffect^[4] s = s.tablesRead := by
  have hlen128 : 128 ≤ s.len := by omega
  have hlen384 : 384 ≤ s.len := by omega
  have hlen386 : 386 ≤ s.len := by omega
  have hct := stepEffect_tableStep hp (by simp) hq hc hflip hlen128
  have hdict := stepEffect_tableStep (s := s.tableStep .ct) (ph := .dict) rfl (by simp) hq hc hflip hlen384
  have hflen := stepEffect_tableStep (s := (s.tableStep .ct).tableStep .dict) (ph := .flen) rfl (by simp) hq hc hflip
    hlen386
  have hfbits := stepEffect_tableStep (s := ((s.tableStep .ct).tableStep .dict).tableStep .flen) (ph := .fbits) rfl
    (by simp) hq hc hflip hlen
  rw [Function.iterate_succ_apply, hct, Function.iterate_succ_apply, hdict, Function.iterate_succ_apply, hflen,
    Function.iterate_one, hfbits]
  rfl

section
variable {u : State} {pc : Nat → Colour} {n : Nat} {plan : EncodePlan} {toks : List WalkToken}

theorem HoldsStream.nfb (h : HoldsStream u.inMem pc n plan) :
    (u.inHalf 384).toNat - 2 = flipByteCount plan.flips := by
  rw [State.inHalf, h.flipLength]
  omega

theorem HoldsStream.tables (h : HoldsStream u.inMem pc n plan) (hn : n ≤ 64) :
    HoldsTables u.tablesRead pc n plan.sel := by
  constructor
  case colours =>
    intro i hi
    have hmod : (BitVec.ofNat 6 i).toNat = i := by rw [BitVec.toNat_ofNat]; omega
    simp only [entry, State.tablesRead, Vector.getElem_ofFn, hmod]
    exact h.colours i hi
  case pairs =>
    intro j q hj
    have hleft := h.lefts j.toNat j.isLt
    have hright := h.rights j.toNat j.isLt
    rw [List.getD_eq_getElem?_getD, hj] at hleft hright
    simp only [entry, State.tablesRead, Vector.getElem_ofFn]
    exact ⟨hleft, hright⟩

theorem HoldsStream.bytesAhead (h : HoldsStream u.inMem pc n plan) :
    Gives u.inByte (386 + ((u.inHalf 384).toNat - 2)) plan.body :=
  gives_of_getElem fun i hi => by rw [← h.body i hi, h.nfb]; rfl

theorem HoldsStream.flipsAhead (h : HoldsStream u.inMem pc n plan) : Gives u.flipBit 0 plan.flips :=
  gives_of_getElem fun i hi => by
    rw [Nat.zero_add, ← List.getD_eq_getElem _ false hi, ← h.flips i hi]
    rfl

/-- A DECODE of a plan's stream, its tables read, stands before the tokens of the image. -/
theorem HoldsStream.ahead (h : HoldsStream u.inMem pc n plan) (hr : Renders plan pc n toks) (hn : n ≤ 64)
    (hlen : u.inLen.toNat = plan.size) (hq : u.hostQ.tail = []) (m k : Bool) (p : EncodePlan) :
    Ahead pc n plan.sel (u.running cmdDecode m k p).tablesRead toks where
  silent := hq
  phase := rfl
  cmd := rfl
  tables := h.tables (u := u.running cmdDecode m k p) hn
  bytes := hr.body ▸ h.bytesAhead (u := u.running cmdDecode m k p)
  len := by
    rw [← hr.body]
    change u.inLen.toNat = 386 + ((u.inHalf 384).toNat - 2) + plan.body.length
    rw [hlen, h.nfb, EncodePlan.size]
  flips := hr.flips ▸ h.flipsAhead (u := u.running cmdDecode m k p)
  supply := by
    rw [← hr.flips]
    change 0 + plan.flips.length ≤ 8 * ((u.inHalf 384).toNat - 2)
    rw [h.nfb, flipByteCount]
    omega
  pixels := (Nat.zero_add _).trans hr.pixels
  rows := hr.rows
  readable := hr.readable

/-- A DECODE of a plan's stream ends with success, nothing trailing, and paints the image. -/
theorem HoldsStream.decode_run (h : HoldsStream u.inMem pc n plan) (hr : Renders plan pc n toks) (hn : n ≤ 64)
    (hlen : u.inLen.toNat = plan.size) (hb : u.busy = false) (hu : u.undisturbed)
    (hcap : u.inLen.toNat ≤ u.params.inCap) {m k : Bool} (hq : u.hostQ = [.write .w32 0#32 (startWord cmdDecode m k)]) :
    DecodedTo (stepEffect^[2 + toks.length + 5] u) (toks.flatMap (walkPixels pc)) := by
  have htail : u.hostQ.tail = [] := by rw [hq]; rfl
  have hflip : (u.inHalf 384).toNat = 2 + flipByteCount plan.flips := h.flipLength
  have hstart : stepEffect u = u.running cmdDecode m k u.plan := by
    rw [stepEffect_start hq]
    exact startCommand_checkLength hb hcap cmdDecode m k
  have hfits : 386 + ((u.inHalf 384).toNat - 2) ≤ u.inLen.toNat := by rw [hlen, h.nfb, EncodePlan.size]; omega
  have htables : stepEffect^[4] (u.running cmdDecode m k u.plan) = (u.running cmdDecode m k u.plan).tablesRead :=
    stepEffect_tables (s := u.running cmdDecode m k u.plan) rfl htail rfl
      (hflip.ge.trans' (Nat.le_add_right 2 _)) hfits
  rw [Function.iterate_add_apply, Function.iterate_succ_apply stepEffect 4 u, hstart, htables]
  exact (h.ahead hr hn hlen htail m k u.plan).image hr.sel hu rfl

end

end Sys2Proof.Machine
end

section
/-!
The round trip (42_pixel_encoder.md R195): what ENCODE leaves in OUT holds the stream of its plan, and a DECODE of a
copy of it paints the image the plan's tokens stand for.
-/

namespace Sys2Proof.Machine

open Sys2Proof

theorem State.makePlan_size (s : State) : s.makePlan.size ≤ 5386 := by
  have hfits := s.makePlan_fits
  rw [EncodePlan.size]
  omega

/-- Settles O60: the seven steps of the ENCODE, then those of the DECODE of its stream. -/
theorem encodeThenDecodeIsIdentity : Obligations.EncodeThenDecodeIsIdentity := by
  intro s m k hb hu hr hq
  obtain ⟨hphase, hstatus, houtLen, hholds⟩ := encode_run hb hu hr hq rfl
  refine ⟨7, _, run_eq 7 s, hphase, hstatus, fun u m' k' hub huu hlegal huq hinLen hcopy => ?_⟩
  have hrenders := State.makePlan_renders (s := s.nextEvent.start cmdEncode m k) hr
  have himage : (s.nextEvent.start cmdEncode m k).planTokens.flatMap (walkPixels s.palColour) =
      (List.range 5000).map fun p => s.palColour (s.index p) :=
    (s.nextEvent.start cmdEncode m k).planTokens_pixels
  have hsize := (s.nextEvent.start cmdEncode m k).makePlan_size
  obtain ⟨-, hcount, -⟩ := hr
  obtain ⟨hcap, -⟩ := hlegal
  have hlen : (stepEffect^[7] s).outLen.toNat = (s.nextEvent.start cmdEncode m k).makePlan.size := by
    rw [houtLen, BitVec.toNat_ofNat, Nat.mod_eq_of_lt (by omega)]
  rw [hlen] at hcopy
  rw [← hinLen] at hlen
  have hdecoded := (hholds.copy hcount hcopy).decode_run hrenders hcount hlen hub huu (by omega) huq
  refine ⟨_, _, run_eq _ u, hdecoded.phase, hdecoded.status, hdecoded.pixCount, fun p hp => ?_⟩
  have hpixel := hdecoded.pixels p (by rwa [himage, List.length_map, List.length_range])
  simp only [himage, List.getElem_map, List.getElem_range] at hpixel
  exact hpixel.trans (s.colourWord_palColour _)

end Sys2Proof.Machine
end

section
/-!
What SNIFF does instead of painting (43_format_sniffer.md R211 to R214): tables skipped, tokens counted, and at the end an
accept or under strictness a reject of trailing bytes.
-/

namespace Sys2Proof.Machine

open Sys2Proof

theorem State.encoding_of_sniffing {s : State} (h : s.sniffing = true) : s.encoding = false := by
  rw [State.encoding, eq_of_beq h]
  decide

/-! Tokens. -/

theorem State.countToken_fits {s : State} {size n d : Nat} (h : s.count + n ≤ 5000) :
    s.countToken size n d = { s with pos := s.pos + size, count := s.count + n, fcur := s.fcur + d } := by
  rw [State.countToken, if_neg (by omega)]

theorem State.countToken_overflows {s : State} {size n d : Nat} (h : 5000 < s.count + n) :
    s.countToken size n d = s.raise .pixelCountMismatch .pixels s.pos := if_pos h

/-- The meaning of each token in SNIFF: its size, pixels and flip bits are counted. -/
theorem effect_sniff {s : State} (hs : s.sniffing = true) {i : Instr} (hi : i.source = .stream) :
    effect i s = s.countToken (tokenYield i).1 (tokenYield i).2.1 (tokenYield i).2.2 := by
  cases i with
  | sgl | dbl | dic | run => exact if_pos hs
  | decode | encode | sniff | badCommand => exact absurd hi (by simp [Instr.source])

/-- Settles O14: the two outcomes of COUNT_STEP are the two clauses. -/
theorem sniffCountsTokens : Obligations.SniffCountsTokens := by
  intro s i hi hs
  have hexec := exec_of_effect (effect_sniff hs hi)
  refine ⟨fun hn => ?_, fun hn hu => ?_⟩
  · rwa [State.countToken_fits hn] at hexec
  · rw [State.countToken_overflows hn] at hexec
    exact ⟨_, hexec, State.raise_reported hu ..⟩

/-! Tables. -/

theorem State.ctRead_short {s : State} (h : s.len < 128) : s.ctRead = s.raise .shortRead .ct 0 := if_pos h

theorem State.dictRead_short {s : State} (h : s.len < 384) : s.dictRead = s.raise .shortRead .dict 128 := if_pos h

theorem State.ctRead_sniff {s : State} (hs : s.sniffing = true) (h : 128 ≤ s.len) :
    s.ctRead = { s with pos := 128, phase := .dict } := by
  rw [State.ctRead, if_neg (by omega), if_pos hs]

theorem State.dictRead_sniff {s : State} (hs : s.sniffing = true) (h : 384 ≤ s.len) :
    s.dictRead = { s with pos := 384, phase := .flen } := by
  rw [State.dictRead, if_neg (by omega), if_pos hs]

/-- Settles O25. -/
theorem sniffSkipsTables : Obligations.SniffSkipsTables := by
  intro s hq hs he
  have hct (hp : s.phase = .ct) : step s = .next s.ctRead := by simp [step_ct hq hp, he]
  have hdict (hp : s.phase = .dict) : step s = .next s.dictRead := by simp [step_dict hq hp, he]
  refine ⟨fun hp hlen => ?_, fun hp hlen => ?_, fun hp hlen hu => ?_, fun hp hlen hu => ?_⟩
  · rw [hct hp, State.ctRead_sniff hs hlen]
  · rw [hdict hp, State.dictRead_sniff hs hlen]
  · exact ⟨_, (hct hp).trans (congrArg _ (State.ctRead_short hlen)), State.raise_reported hu ..⟩
  · exact ⟨_, (hdict hp).trans (congrArg _ (State.dictRead_short hlen)), State.raise_reported hu ..⟩

/-! The end. -/

theorem engineEffect_ending_sniff {s : State} (hp : s.phase = .ending) (hs : s.sniffing = true) :
    engineEffect s = s.finishSniff := by simp [engineEffect, hp, State.encoding_of_sniffing hs, hs]

/-- Strictness turns away a stream that goes on behind pixel 5000 (R212). -/
abbrev State.rejectsTrailing (s : State) : Prop := s.strict = true ∧ s.pos ≠ s.len

/-- The result SNIFF completes with at its end (R211, R212). -/
def State.sniffResult (s : State) : Result :=
  if s.rejectsTrailing then abortResult true .trailingData .ending
  else { err := false, accept := true, trailing := false, code := .none, sec := .none, outLen := 0 }

/-- Accept or reject, the end of SNIFF is a completion that leaves the cursors where they stand. -/
theorem State.finishSniff_eq {s : State} (hs : s.sniffing = true) : s.finishSniff = s.complete s.sniffResult := by
  unfold State.finishSniff State.sniffResult
  split
  · rw [State.raise_other s _ _ _ (State.not_decoding (.inr hs)), hs]
    rfl
  · rfl

theorem State.sniffResult_status (s : State) :
    s.sniffResult.status = if s.rejectsTrailing then 0x6802#32 else 0xA#32 := by
  unfold State.sniffResult
  split <;> decide

theorem State.sniffResult_outLen (s : State) : s.sniffResult.outLen = 0 := by
  unfold State.sniffResult
  split <;> rfl

/-- Settles O27. -/
theorem sniffEnds : Obligations.SniffEnds := by
  intro s hq hs
  refine ⟨fun hp hc => ?_, fun hp hu => ?_⟩
  · rw [step_pixels hq hp (State.encoding_of_sniffing hs), tokenEffect_at_end hc]
  · rw [step_silent hq, engineEffect_ending_sniff hp hs, State.finishSniff_eq hs, State.complete_undisturbed _ _ hu,
      State.sniffResult_status, State.sniffResult_outLen]
    exact ⟨_, rfl, rfl, rfl, rfl, rfl, rfl, rfl, rfl, rfl, rfl, rfl, rfl, rfl⟩

end Sys2Proof.Machine
end

section
/-!
A SNIFF follows the DECODE of the same stream (43_format_sniffer.md R216, R217): step by step the two states differ in the
command and in what DECODE alone writes, the tables and PIX, until the DECODE ends or cannot paint a token.
-/

namespace Sys2Proof.Machine

open Sys2Proof

/-! The state of the SNIFF. -/

/-- The SNIFF that stands where the DECODE `s` stands: tables and PIX are as `o` has them, SNIFF writing neither. -/
def State.asSniff (s o : State) : State :=
  { s with cmd := cmdSniff, ct := o.ct, dl := o.dl, dr := o.dr, pixMem := o.pixMem }

section
variable (s o : State)

@[simp] theorem State.asSniff_encoding : (s.asSniff o).encoding = false := rfl
@[simp] theorem State.asSniff_sniffing : (s.asSniff o).sniffing = true := rfl
@[simp] theorem State.asSniff_phase : (s.asSniff o).phase = s.phase := rfl
@[simp] theorem State.asSniff_tokenBytes : (s.asSniff o).tokenBytes = s.tokenBytes := rfl

end

theorem State.encoding_of_decode {s : State} (h : s.cmd = cmdDecode) : s.encoding = false := by
  rw [State.encoding, h]
  decide

theorem State.sniffing_of_decode {s : State} (h : s.cmd = cmdDecode) : s.sniffing = false := by
  rw [State.sniffing, h]
  decide

/-! One step of both. -/

/-- The next states of a DECODE at `s` and of the SNIFF at `s.asSniff o`. -/
inductive Lockstep (s o : State) : State → State → Prop
  /-- Both go on. -/
  | runs {t : State} : t.phase ≠ .idle → Lockstep s o t (t.asSniff o)
  /-- The DECODE aborts where the SNIFF rejects (R216). -/
  | abort (l : Half) (e : Code) (c : Sec) (k : Nat) : abortErr true e = false →
      Lockstep s o (State.raise e c k { s with flipL := l }) (State.raise e c k (State.asSniff { s with flipL := l } o))
  /-- The DECODE cannot paint a token, whatever becomes of the SNIFF (R217). -/
  | unpaintable (e : Code) (t' : State) : e = .rowOverflow ∨ e = .flipOverrun →
      Lockstep s o (s.raise e .pixels s.pos) t'
  /-- Both are at their end. -/
  | finish : Lockstep s o s.finishDecode (s.asSniff o).finishSniff

section
variable {s o : State}

/-- An abort that leaves the flip length as it stands. -/
theorem Lockstep.raise {e : Code} (c : Sec) (k : Nat) (he : abortErr true e = false) :
    Lockstep s o (s.raise e c k) ((s.asSniff o).raise e c k) := .abort s.flipL e c k he

theorem Lockstep.ctRead : Lockstep s o s.ctRead (s.asSniff o).ctRead := by
  rcases s.ctRead_cases with ⟨hlen, he⟩ | ⟨hlen, ct, he⟩ <;> rw [he]
  · rw [State.ctRead_short (s := s.asSniff o) hlen]
    exact .raise _ _ rfl
  · rw [State.ctRead_sniff (s := s.asSniff o) rfl hlen]
    exact .runs (t := { s with ct := ct, pos := 128, phase := .dict }) (by simp)

theorem Lockstep.dictRead : Lockstep s o s.dictRead (s.asSniff o).dictRead := by
  rcases s.dictRead_cases with ⟨hlen, he⟩ | ⟨hlen, dl, dr, he⟩ <;> rw [he]
  · rw [State.dictRead_short (s := s.asSniff o) hlen]
    exact .raise _ _ rfl
  · rw [State.dictRead_sniff (s := s.asSniff o) rfl hlen]
    exact .runs (t := { s with dl := dl, dr := dr, pos := 384, phase := .flen }) (by simp)

/-- A choice the two make alike. -/
theorem Lockstep.ite {p : Prop} {i j : Decidable p} {a b a' b' : State} (ha : p → Lockstep s o a a')
    (hb : ¬ p → Lockstep s o b b') : Lockstep s o (@ite State p i a b) (@ite State p j a' b') := by
  by_cases hp : p
  · rw [if_pos hp, if_pos hp]
    exact ha hp
  · rw [if_neg hp, if_neg hp]
    exact hb hp

theorem Lockstep.flenRead : Lockstep s o s.flenRead (s.asSniff o).flenRead :=
  .ite (fun _ => .raise _ _ rfl) fun _ => .ite (fun _ => .abort _ _ _ _ rfl) fun _ =>
    .runs (t := { s with
      flipL := s.inHalf 384, nfb := (s.inHalf 384).toNat - 2, pos := 386, phase := .fbits }) (by simp)

theorem Lockstep.fbitsRead : Lockstep s o s.fbitsRead (s.asSniff o).fbitsRead :=
  .ite (fun _ => .raise _ _ rfl) fun _ => .runs (t := { s with pos := 386 + s.nfb, phase := .pixels }) (by simp)

/-! One token of both. -/

/-- A token that DECODE paints SNIFF counts: its row has room, so the pixels stay within 5000. -/
theorem Lockstep.advance (hp : s.phase ≠ .idle) (hc : s.count < 5000) (size d : Nat) {ps : List Colour}
    (hrow : s.column + ps.length ≤ 100) :
    Lockstep s o (s.advance ps size d) ((s.asSniff o).countToken size ps.length d) := by
  rw [State.countToken_fits (s := s.asSniff o) (s.count_fits hc hrow)]
  exact .runs (t := s.advance ps size d) hp

theorem Lockstep.paintInRow (hp : s.phase ≠ .idle) (hc : s.count < 5000) (size : Nat) (ps : List Colour) :
    Lockstep s o (s.paintInRow size ps) ((s.asSniff o).countToken size ps.length 0) := by
  rcases s.paintInRow_cases size ps with ⟨hrow, he⟩ | ⟨_, he⟩ <;> rw [he]
  · rw [State.paint_eq_advance]
    exact .advance hp hc size 0 hrow
  · exact .unpaintable _ _ (.inl rfl)

theorem Lockstep.paintPair (hp : s.phase ≠ .idle) (hc : s.count < 5000) (j : BitVec 6) :
    Lockstep s o (s.paintPair j) ((s.asSniff o).countToken 1 2 1) := by
  rcases s.paintPair_cases j with ⟨hrow, _, he⟩ | ⟨_, he⟩ | ⟨_, _, he⟩ <;> rw [he]
  · have hlen := s.pair_length j (s.flipBit s.fcur)
    rw [State.paint_eq_advance, ← hlen]
    exact .advance hp hc 1 1 (by omega)
  · exact .unpaintable _ _ (.inl rfl)
  · exact .unpaintable _ _ (.inr rfl)

theorem Lockstep.token (hd : s.cmd = cmdDecode) (hp : s.phase ≠ .idle) (hc : s.count < 5000) {i : Instr}
    (hi : i.source = .stream) : Lockstep s o (effect i s) (effect i (s.asSniff o)) := by
  have hs := State.sniffing_of_decode hd
  rw [effect_sniff (s := s.asSniff o) rfl hi]
  cases i with
  | sgl x =>
    have hrow : s.column + 1 ≤ 100 := by unfold State.column; omega
    rw [effect_sgl hs, State.paint_eq_advance]
    exact .advance hp hc 1 0 (ps := [entry s.ct x]) hrow
  | dbl x => rw [effect_dbl hs]; exact .paintInRow hp hc 1 [entry s.ct x, entry s.ct x]
  | dic j => rw [effect_dic hs]; exact .paintPair hp hc j
  | run x r =>
    have hrun := Lockstep.paintInRow (o := o) hp hc 2 (List.replicate (runLength r) (entry s.ct x))
    rw [List.length_replicate] at hrun
    rw [effect_run hs]
    exact hrun
  | decode | encode | sniff | badCommand => exact absurd hi (by simp [Instr.source])

theorem Lockstep.tokenEffect (hd : s.cmd = cmdDecode) (hp : s.phase ≠ .idle) :
    Lockstep s o (tokenEffect s) (tokenEffect (s.asSniff o)) := by
  unfold Sys2Proof.Machine.tokenEffect
  rw [State.asSniff_tokenBytes]
  refine .ite (fun hc => ?_) fun _ => .runs (t := { s with phase := .ending }) (by simp)
  rcases s.fetch_cases with ⟨_, h⟩ | ⟨_, h⟩ | ⟨_, i, rest, h, hi, _⟩ <;> simp only [h]
  · exact .raise _ _ rfl
  · exact .raise _ _ rfl
  · exact .token hd hp hc hi

/-- While the DECODE goes on, so does the SNIFF. -/
theorem Lockstep.asSniff {t t' : State} (h : Lockstep s o t t') (hruns : t.phase ≠ .idle) : t' = t.asSniff o := by
  cases h with
  | runs => rfl
  | abort | unpaintable => exact absurd (State.raise_phase ..) hruns
  | finish => exact absurd (State.complete_phase ..) hruns

/-- Every step of a running DECODE and of the SNIFF that stands where it stands. -/
theorem Lockstep.engineEffect (hd : s.cmd = cmdDecode) (hp : s.phase ≠ .idle) :
    Lockstep s o (engineEffect s) (engineEffect (s.asSniff o)) := by
  have he := State.encoding_of_decode hd
  cases h : s.phase
  case idle => exact absurd h hp
  case ending =>
    rw [engineEffect_ending h he (State.sniffing_of_decode hd), engineEffect_ending_sniff (s := s.asSniff o) h rfl]
    exact .finish
  all_goals
    simp only [Sys2Proof.Machine.engineEffect, State.asSniff_phase, State.asSniff_encoding, h, he, Bool.false_eq_true,
      if_false]
  case ct => exact .ctRead
  case dict => exact .dictRead
  case flen => exact .flenRead
  case fbits => exact .fbitsRead
  case pixels => exact .tokenEffect hd hp

end

/-! What the host reads after both. -/

/-- The completion `t` reports the result `r` and the cursors of `s` (10_state.md R50). -/
structure Reports (s t : State) (r : Result) : Prop where
  phase : t.phase = .idle
  err : t.err = r.err
  accept : t.accept = r.accept
  trailing : t.trailing = r.trailing
  code : t.code = r.code.number
  sectionCode : t.sectionCode = r.sec.number
  byteCursor : t.byteCursor = BitVec.ofNat 32 s.pos
  pixCount : t.pixCount = BitVec.ofNat 32 s.count
  flipCursor : t.flipCursor = BitVec.ofNat 32 s.fcur
  flipLen : t.flipLen = s.flipL.setWidth 32

theorem State.complete_reports {s : State} (r : Result) (h : s.tainted = false) : Reports s (s.complete r) r := by
  obtain ⟨-, hfields⟩ := statusLayout false true r.err r.accept r.trailing r.code.number r.sec.number
  obtain ⟨-, -, herr, haccept, htrailing, hcode, hsec⟩ := hfields _ (s.complete_status r h)
  exact ⟨s.complete_phase r, herr, haccept, htrailing, hcode, hsec, s.complete_byteCursor r h, s.complete_pixCount r h,
    s.complete_flipCursor r h, s.complete_flipLen r h⟩

theorem State.raise_reports {s : State} (e : Code) (c : Sec) (k : Nat) (h : s.tainted = false) :
    Reports (s.moveTo k) (s.raise e c k) (abortResult s.sniffing e c) := by
  unfold State.raise
  split
  · exact { State.complete_reports (s := (s.moveTo k).loosePixels) (abortResult s.sniffing e c) h with }
  · exact State.complete_reports _ h

theorem State.finishSniff_reports {s : State} (hs : s.sniffing = true) (h : s.tainted = false) :
    Reports s s.finishSniff s.sniffResult := by
  rw [State.finishSniff_eq hs]
  exact State.complete_reports _ h

/-- What O58 says of the ends `t` of a DECODE and `t'` of a SNIFF, `k` being the strictness (R216, R217). -/
def SniffVerdict (k : Bool) (t t' : State) : Prop :=
  (t.err = false ∨ t.code ≠ 6#4 ∧ t.code ≠ 7#4 →
    t'.phase = .idle ∧ t'.err = false ∧ t'.byteCursor = t.byteCursor ∧ t'.pixCount = t.pixCount ∧
    t'.flipCursor = t.flipCursor ∧ t'.flipLen = t.flipLen) ∧
  (t.err = true → t.code ≠ 6#4 → t.code ≠ 7#4 →
    t'.accept = false ∧ t'.code = t.code ∧ t'.sectionCode = t.sectionCode) ∧
  (t.err = false → t.trailing = false ∨ k = false → t'.accept = true ∧ t'.code = 0#4) ∧
  (t.err = false → t.trailing = true → k = true → t'.accept = false ∧ t'.code = 8#4 ∧ t'.sectionCode = 6#3)

section
variable {s o t t' : State} {r r' : Result} {e : Code} {c : Sec} {k : Bool}

/-- Where a DECODE and the SNIFF of its stream end at the same cursors, they report the same registers. -/
theorem Reports.same_registers (h : Reports s t r) (h' : Reports (s.asSniff o) t' r') :
    t'.byteCursor = t.byteCursor ∧ t'.pixCount = t.pixCount ∧ t'.flipCursor = t.flipCursor ∧ t'.flipLen = t.flipLen :=
  ⟨h'.byteCursor.trans h.byteCursor.symm, h'.pixCount.trans h.pixCount.symm, h'.flipCursor.trans h.flipCursor.symm,
    h'.flipLen.trans h.flipLen.symm⟩

theorem Reports.err_of_abort (h : Reports s t (abortResult false e c)) : t.err = true := by
  rw [h.err]
  cases e <;> rfl

/-- R216: the SNIFF rejects with the code and the section of the abort. -/
theorem SniffVerdict.of_abort (h : Reports s t (abortResult false e c))
    (h' : Reports (s.asSniff o) t' (abortResult true e c)) (he : abortErr true e = false) : SniffVerdict k t t' := by
  have herr (hf : t.err = false) : False := Bool.false_ne_true (hf.symm.trans h.err_of_abort)
  exact ⟨fun _ => ⟨h'.phase, h'.err.trans he, h.same_registers h'⟩,
    fun _ _ _ => ⟨h'.accept, h'.code.trans h.code.symm, h'.sectionCode.trans h.sectionCode.symm⟩,
    fun hf => (herr hf).elim, fun hf => (herr hf).elim⟩

/-- R217: of a stream whose pixels cannot be painted nothing is said. -/
theorem SniffVerdict.of_unpaintable (h : Reports s t (abortResult false e c))
    (he : e = .rowOverflow ∨ e = .flipOverrun) : SniffVerdict k t t' := by
  have herr (hf : t.err = false) : False := Bool.false_ne_true (hf.symm.trans h.err_of_abort)
  have hcode : t.code = 6#4 ∨ t.code = 7#4 := by
    rw [h.code]
    rcases he with rfl | rfl
    · exact .inl rfl
    · exact .inr rfl
  have hnot (h6 : t.code ≠ 6#4) (h7 : t.code ≠ 7#4) : False := hcode.elim h6 h7
  exact ⟨fun hcase => (hcase.elim herr fun ⟨h6, h7⟩ => hnot h6 h7).elim, fun _ h6 h7 => (hnot h6 h7).elim,
    fun hf => (herr hf).elim, fun hf => (herr hf).elim⟩

/-- R210, R212: where the DECODE succeeds the SNIFF accepts, but for trailing bytes under strictness. -/
theorem SniffVerdict.of_finish (ht : s.tainted = false) (hpos : s.pos ≤ s.len) :
    SniffVerdict s.strict s.finishDecode (s.asSniff o).finishSniff := by
  have h : Reports s s.finishDecode _ := State.complete_reports _ ht
  have h' : Reports (s.asSniff o) (s.asSniff o).finishSniff s.sniffResult := State.finishSniff_reports rfl ht
  have herr (he : s.finishDecode.err = true) : False := Bool.false_ne_true (h.err.symm.trans he)
  have htrailing : s.finishDecode.trailing = true ↔ s.pos < s.len := by rw [h.trailing, decide_eq_true_iff]
  by_cases hr : s.rejectsTrailing
  · rw [State.sniffResult, if_pos hr] at h'
    obtain ⟨hstrict, hne⟩ := hr
    have hnone : ¬ (s.finishDecode.trailing = false ∨ s.strict = false) := by
      rw [hstrict, htrailing.2 (by omega)]
      decide
    exact ⟨fun _ => ⟨h'.phase, h'.err, h.same_registers h'⟩, fun he => (herr he).elim, fun _ hcase => absurd hcase hnone,
      fun _ _ _ => ⟨h'.accept, h'.code, h'.sectionCode⟩⟩
  · rw [State.sniffResult, if_neg hr] at h'
    exact ⟨fun _ => ⟨h'.phase, h'.err, h.same_registers h'⟩, fun he => (herr he).elim,
      fun _ _ => ⟨h'.accept, h'.code⟩,
      fun _ htrail hstrict => absurd ⟨hstrict, (htrailing.1 htrail).ne⟩ hr⟩

/-- Where a step ends the DECODE, the SNIFF gives the verdict on it. -/
theorem Lockstep.verdict (h : Lockstep s o t t') (hd : s.cmd = cmdDecode) (ht : s.tainted = false) (hpos : s.pos ≤ s.len)
    (hidle : t.phase = .idle) : SniffVerdict s.strict t t' := by
  have hs := State.sniffing_of_decode hd
  cases h with
  | runs hruns => exact absurd hidle hruns
  | abort l e c k he =>
    have hdecode := State.raise_reports (s := { s with flipL := l }) e c k ht
    have hsniff := State.raise_reports (s := State.asSniff { s with flipL := l } o) e c k ht
    rw [show State.sniffing { s with flipL := l } = false from hs] at hdecode
    exact .of_abort hdecode hsniff he
  | unpaintable e t' he =>
    have hdecode := State.raise_reports e .pixels s.pos ht
    rw [hs] at hdecode
    exact .of_unpaintable hdecode he
  | finish => exact .of_finish ht hpos

/-! The run. -/

theorem iterate_stepEffect_idle {s : State} (hq : s.hostQ = []) (hp : s.phase = .idle) (n : Nat) :
    stepEffect^[n] s = s :=
  Function.iterate_fixed (by rw [stepEffect_silent hq, Sys2Proof.Machine.engineEffect, hp]) n

theorem EngineMove.tainted {s t : State} (hm : EngineMove s t) (h : s.tainted = false) : t.tainted = false := by
  cases hm with
  | abort | finish => simp
  | rest | write | load | paint | count | leave => exact h

theorem State.finishSniff_phase (s : State) : s.finishSniff.phase = .idle := by
  unfold State.finishSniff
  split
  · exact State.raise_phase ..
  · exact State.complete_phase ..

/-- Where the DECODE has ended, the later steps change a SNIFF only where it goes on past a token that cannot be painted. -/
theorem Lockstep.iterate (h : Lockstep s o t t') (hq : s.hostQ = []) (hidle : t.phase = .idle) (n : Nat) :
    Lockstep s o t (stepEffect^[n] t') := by
  cases h with
  | runs hruns => exact absurd hidle hruns
  | abort l e c k he =>
    rw [iterate_stepEffect_idle (by rw [State.raise_hostQ]; exact hq) (State.raise_phase ..)]
    exact .abort l e c k he
  | unpaintable e t' he => exact .unpaintable e _ he
  | finish =>
    have hmove := EngineMove.finishSniff (s.asSniff o)
    rw [iterate_stepEffect_idle (hmove.hostQ.trans hq) (State.finishSniff_phase _)]
    exact .finish

/-- Once a DECODE has ended, a SNIFF that set out beside it has given its verdict. -/
theorem iterate_stepEffect_verdict (n : Nat) (hq : s.hostQ = []) (ht : s.tainted = false) (hc : s.cursorsInRange)
    (hd : s.cmd = cmdDecode) (hp : s.phase ≠ .idle) (hidle : (stepEffect^[n] s).phase = .idle) :
    SniffVerdict s.strict (stepEffect^[n] s) (stepEffect^[n] (s.asSniff o)) := by
  induction n generalizing s with
  | zero => exact absurd hidle hp
  | succ n ih =>
    have hlock := Lockstep.engineEffect (o := o) hd hp
    have hm := engineEffect_move s
    obtain ⟨_, _, _, _, _, _, hcmd, _, hstrict, _⟩ := hm.frame
    rw [Function.iterate_succ_apply, stepEffect_silent hq] at hidle ⊢
    rw [Function.iterate_succ_apply, stepEffect_silent (s := s.asSniff o) hq]
    by_cases hend : (engineEffect s).phase = .idle
    · obtain ⟨_, _, hcur⟩ := hc
      obtain ⟨hpos, _⟩ := hcur (State.encoding_of_decode hd)
      rw [iterate_stepEffect_idle (hm.hostQ.trans hq) hend]
      exact (hlock.iterate hq hend n).verdict hd ht hpos hend
    · have hnext : engineEffect (s.asSniff o) = (engineEffect s).asSniff o := hlock.asSniff hend
      rw [hnext, ← hstrict]
      exact ih (hm.hostQ.trans hq) (hm.tainted ht) (hm.keeps_cursorsInRange hc) (hcmd.trans hd) hend hidle

end

/-- Settles O58: the SNIFF keeps in lockstep with the DECODE until the DECODE ends. -/
theorem sniffFollowsDecode : Obligations.SniffFollowsDecode := by
  intro s n t hq hu hc hd hp hrun hidle
  rw [run_eq] at hrun
  cases hrun
  obtain ⟨ht, -⟩ := hu
  exact ⟨_, run_eq n _, iterate_stepEffect_verdict (o := s) n hq ht hc hd hp hidle⟩

end Sys2Proof.Machine
end

section
/-!
The aborts of START that concern the configuration (60_exceptions.md R236), as the host sees them, and the idle core that no
host access reaches (R252).
-/

namespace Sys2Proof.Machine

open Sys2Proof

/-! Nothing runs. -/

theorem engineEffect_idle {s : State} (hp : s.phase = .idle) : engineEffect s = s := by
  rw [engineEffect, hp]

/-- Settles O55. -/
theorem idleCoreDoesNothing : Obligations.IdleCoreDoesNothing := fun s hq hp => by
  rw [step_silent hq, engineEffect_idle hp]

/-! The aborts of START. -/

/-- BAD_COMMAND and BAD_LENGTH set ERR in every command, SNIFF included (R236). -/
theorem badCommand_status (sniffing : Bool) :
    statusWord false true (abortErr sniffing .badCommand) false false Code.badCommand.number Sec.input.number =
      0x7906#32 := by
  rw [abortErr]
  decide

theorem badLength_status (sniffing : Bool) :
    statusWord false true (abortErr sniffing .badLength) false false Code.badLength.number Sec.input.number =
      0x7A06#32 := by
  rw [abortErr]
  decide

theorem effect_badCommand {s : State} (hb : s.busy = false) (c : BitVec 3) (m k : Bool) :
    effect (.badCommand c m k) s = (s.nextEvent.start c m k).raise .badCommand .input 0 := by
  rw [effect, State.startCommand_idle hb]

theorem startCommand_badLength {s : State} (hb : s.busy = false) (hl : s.params.inCap < s.inLen.toNat) (c : BitVec 3)
    (m k : Bool) :
    s.startCommand c m k State.checkLength = (s.nextEvent.start c m k).raise .badLength .input 0 := by
  rw [State.startCommand_idle hb]
  exact if_pos hl

/-- DECODE and SNIFF start alike: each checks the length of its stream first. -/
theorem effect_checksLength {i : Instr} {m k : Bool} (hi : i = .decode m k ∨ i = .sniff m k) (s : State) :
    ∃ c, effect i s = s.startCommand c m k State.checkLength := by
  rcases hi with rfl | rfl
  · exact ⟨cmdDecode, rfl⟩
  · exact ⟨cmdSniff, rfl⟩

/-- Settles O19: each check raises from the state START has cleared, so that the abort reports cursors of 0. -/
theorem startChecksAbort : Obligations.StartChecksAbort := by
  refine fun s m k hb hu => ⟨fun c hdecode _ _ => ?_, fun hl i hi => ?_⟩
  · obtain ⟨hphase, hstatus, hbyte, hpix, hflip, hflen, hout, hctrl, -, -, hin, houtMem, hpal, hidx, -, hpixMem⟩ :=
      State.raise_reported (s := s.nextEvent.start c m k) hu .badCommand .input 0
    exact ⟨_, exec_of_effect (effect_badCommand hb c m k), hphase, hstatus.trans (badCommand_status _),
      (congrArg BitVec.toNat hctrl).trans (ctrlWord_toNat c m k), hbyte, hpix, hflip, hflen, hout, hin, houtMem, hpal,
      hidx, hpixMem hdecode⟩
  · obtain ⟨c, hstart⟩ := effect_checksLength hi s
    obtain ⟨hphase, hstatus, hbyte, hpix, hflip, hflen, hout, -, -, -, hin, houtMem, -⟩ :=
      State.raise_reported (s := s.nextEvent.start c m k) hu .badLength .input 0
    exact ⟨_, exec_of_effect (hstart.trans (startCommand_badLength hb hl c m k)), hphase,
      hstatus.trans (badLength_status _), hbyte, hpix, hflip, hflen, hout, hin, houtMem⟩

end Sys2Proof.Machine
end

section
/-!
The reset event (70_reset_and_hazards.md R260 to R262), the state after reset (R261), and the invariants that hold there.
-/

namespace Sys2Proof.Machine

open Sys2Proof

/-- R260: the reset event takes effect in every state, and the host's later accesses stay. -/
theorem step_reset {s : State} {q : List HostEvent} (hq : s.hostQ = .reset :: q) :
    step s = .next { s with hostQ := q }.applyReset := by
  rw [step_eq, stepEffect, hq, State.nextEvent_of_hostQ hq]

/-- Settles O8. -/
theorem resetEventFromAnyState : Obligations.ResetEventFromAnyState := fun _ _ hq =>
  ⟨_, step_reset hq, rfl, rfl, rfl, rfl, rfl, rfl, rfl, rfl, rfl, rfl, rfl, rfl, rfl, rfl, rfl, rfl, rfl, rfl, rfl, rfl,
    rfl⟩

/-- Settles O7: the fields by evaluation, the reserved offsets by the register map. -/
theorem resetRegisters : Obligations.ResetRegisters :=
  ⟨rfl, rfl, rfl, rfl, rfl, rfl, rfl, rfl, rfl, rfl, rfl, rfl, rfl, rfl, rfl, rfl, rfl, rfl, rfl, fun _ hk _ =>
    congrArg Prod.fst (State.readRegister_reserved State.reset hk)⟩

theorem Params.standard_legal : Params.standard.legal := by decide

theorem State.reset_memoriesInWindows : State.reset.memoriesInWindows :=
  (State.applyReset_storesInWindows State.reset).1

theorem State.reset_undisturbed : State.reset.undisturbed := ⟨rfl, rfl, rfl⟩

/-- Settles O54. -/
theorem invariantsHoldAtReset : Obligations.InvariantsHoldAtReset :=
  ⟨State.reset_memories_wf, State.reset_reservedBitsZero, State.reset_cursorsInRange, State.reset_busyMatchesPhase,
    Params.standard_legal, State.reset_memoriesInWindows, State.encodeFits_idle rfl, State.reset_undisturbed⟩

end Sys2Proof.Machine
end

section
/-!
What a completion reports when the host wrote an input while the command ran (70_reset_and_hazards.md R266, log 11): the
step that ends a command is a completion, and a tainted one draws every result from the free values.
-/

namespace Sys2Proof.Machine

open Sys2Proof

/-! How a command ends. -/

/-- The state `t` is the completion of a state that has `s`'s hazard and parameters and has drawn no fewer free values. -/
def Completes (s t : State) : Prop :=
  ∃ u r, t = State.complete r u ∧ u.tainted = s.tainted ∧ u.params = s.params ∧ s.draws ≤ u.draws

theorem State.raise_completes (s : State) (e : Code) (c : Sec) (k : Nat) : Completes s (s.raise e c k) := by
  by_cases hc : s.cmd = cmdDecode
  · exact ⟨_, _, State.raise_decode s e c k hc, rfl, rfl, Nat.le_add_right _ _⟩
  · exact ⟨_, _, State.raise_other s e c k hc, rfl, rfl, le_rfl⟩

/-- The step that ends a command is a completion (10_state.md R50). -/
theorem EngineMove.completes {s t : State} (hm : EngineMove s t) (hs : s.phase ≠ .idle) (ht : t.phase = .idle) :
    Completes s t := by
  cases hm with
  | rest | paint | count => exact absurd ht hs
  | write _ _ _ _ _ _ _ _ hph | load _ _ _ _ _ _ _ hph => exact absurd ht hph
  | leave => exact absurd ht (by simp)
  | abort l e c k => exact State.raise_completes { s with flipL := l } e c k
  | finish n r => exact ⟨_, r, rfl, rfl, rfl, le_rfl⟩

theorem Completes.busy {s t : State} (h : Completes s t) : t.busy = false := by
  obtain ⟨u, r, rfl, _⟩ := h
  exact u.complete_busy r

theorem Completes.done {s t : State} (h : Completes s t) : t.done = true := by
  obtain ⟨u, r, rfl, _⟩ := h
  exact u.complete_done r

/-! Free values. -/

/-- Every byte of the memory below `size` is a free value, of an index no lower than `d`. -/
def FreeBelow (d : Nat) (m : Memory) (size : Nat) : Prop :=
  ∀ a, a < size → ∃ n, d ≤ n ∧ m.read a = Config.freeByte n

theorem FreeBelow.mono {d d' size : Nat} {m : Memory} (h : FreeBelow d' m size) (hd : d ≤ d') : FreeBelow d m size :=
  fun a ha =>
    let ⟨n, hn, hread⟩ := h a ha
    ⟨n, hd.trans hn, hread⟩

theorem Memory.fill_range_free (m : Memory) (base size : Nat) : FreeBelow base (m.fill base (List.range size)) size :=
  fun a ha => ⟨base + a, Nat.le_add_right _ _, Memory.read_fill_listed m base _ (List.mem_range.2 ha)⟩

/-- Free values written over free values leave free values. -/
theorem FreeBelow.fill {d base size : Nat} {m : Memory} (h : FreeBelow d m size) (hbase : d ≤ base) (os : List Nat) :
    FreeBelow d (m.fill base os) size := by
  intro a ha
  by_cases hmem : a ∈ os
  · exact ⟨base + a, by omega, Memory.read_fill_listed m base os hmem⟩
  · rw [Memory.read_fill_other m base os hmem]
    exact h a ha

/-- STATUS of a tainted completion: the fields of a free value, but BUSY and DONE. -/
theorem State.freeStatus_fields {s : State} {w : Word} (h : s.status = freeStatus w) :
    s.err = w.getLsbD 2 ∧ s.accept = w.getLsbD 3 ∧ s.trailing = w.getLsbD 4 ∧ s.code = w.extractLsb' 8 4 ∧
      s.sectionCode = w.extractLsb' 12 3 := by
  obtain ⟨_, _, hfields⟩ := (statusLayout false true _ _ _ _ _).2 s h
  exact hfields

/-! A tainted completion. -/

theorem State.complete_of_tainted {s : State} (r : Result) (h : s.tainted = true) :
    s.complete r = { s.reportFree.settleDirty with phase := .idle, tainted := false } := by
  rw [State.complete, h]
  rfl

theorem State.complete_pix_free {s : State} (r : Result) (h : s.tainted = true) :
    FreeBelow s.draws (s.complete r).pixMem 10000 := by
  rw [State.complete_of_tainted r h, ← pixBytes_eq]
  have hreport := (Memory.fill_range_free s.pixMem (s.draws + 6) pixBytes).mono (Nat.le_add_right s.draws 6)
  exact hreport.fill (by simp only [State.reportFree_draws]; omega) s.dirtyPix

theorem State.complete_out_free {s : State} (r : Result) (h : s.tainted = true) :
    FreeBelow s.draws (s.complete r).outMem s.params.outCap := by
  rw [State.complete_of_tainted r h]
  have hreport := (Memory.fill_range_free s.outMem (s.draws + 6 + pixBytes) s.params.outCap).mono
    (show s.draws ≤ s.draws + 6 + pixBytes by omega)
  exact hreport.fill (by simp only [State.reportFree_draws]; omega) s.dirtyOut

/-- Settles O47: the step that ends the command is the completion of a tainted state. -/
theorem taintedResultsAreFree : Obligations.TaintedResultsAreFree := by
  intro s t hq hs htaint hstep ht
  have hm := step_engineMove hq hstep
  obtain ⟨hin, hpal, hidx, -⟩ := hm.frame
  obtain ⟨u, r, rfl, hu, hparams, hdraws⟩ := hm.completes hs ht
  rw [htaint] at hu
  rw [← hparams]
  have hreport := State.complete_of_tainted r hu
  obtain ⟨herr, haccept, htrailing, hcode, hsection⟩ :=
    State.freeStatus_fields (w := Config.freeWord u.draws) (congrArg State.status hreport)
  have hflipLen := (congrArg State.flipLen hreport).trans (setWidth_sixteen (Config.freeWord (u.draws + 5)))
  exact ⟨u.complete_busy r, u.complete_done r, u.complete_tainted r,
    ⟨u.draws, hdraws, herr, haccept, htrailing, hcode, hsection, congrArg State.outLen hreport,
      congrArg State.byteCursor hreport, congrArg State.pixCount hreport, congrArg State.flipCursor hreport, hflipLen⟩,
    (State.complete_pix_free r hu).mono hdraws, (State.complete_out_free r hu).mono hdraws, hin, hpal, hidx⟩

end Sys2Proof.Machine
end

section
/-!
Every command completes (70_reset_and_hazards.md R275): each step of a running command leaves its section for a later one or
moves the pixel counter up, so that the sections and the pixels still to come bound the steps to its end.
-/

namespace Sys2Proof.Machine

open Sys2Proof

/-! What is still to come. -/

/-- The number of sections from a phase on, END among them. -/
def Phase.sectionsLeft : Phase → Nat
  | .idle => 0
  | .ending => 1
  | .pixels => 2
  | .fbits => 3
  | .flen => 4
  | .dict => 5
  | .ct => 6

theorem Phase.sectionsLeft_le (p : Phase) : p.sectionsLeft ≤ 6 := by cases p <;> decide

theorem Phase.sectionsLeft_pos {p : Phase} (h : p ≠ .idle) : 0 < p.sectionsLeft := by
  cases p with
  | idle => exact absurd rfl h
  | ct | dict | flen | fbits | pixels | ending => decide

/-- A bound on the steps to the end of the running command: its sections and its pixels still to come. -/
def State.stepsLeft (s : State) : Nat := s.phase.sectionsLeft + (5000 - s.count)

theorem State.stepsLeft_le (s : State) : s.stepsLeft ≤ 5006 := by
  have := s.phase.sectionsLeft_le
  unfold State.stepsLeft
  omega

/-- In `t` less is still to come than in `s`. -/
def Advances (s t : State) : Prop := t.stepsLeft < s.stepsLeft

section
variable {s t : State}

/-- A section is done, and no pixel undone. -/
theorem Advances.of_section (hsec : t.phase.sectionsLeft < s.phase.sectionsLeft) (hc : 5000 - t.count ≤ 5000 - s.count) :
    Advances s t := by
  unfold Advances State.stepsLeft
  omega

/-- Pixels are done in the section. -/
theorem Advances.of_pixels (hphase : t.phase = s.phase) (hroom : s.count < 5000) (hc : s.count < t.count) :
    Advances s t := by
  unfold Advances State.stepsLeft
  rw [hphase]
  omega

/-- The command goes on to a later section. -/
theorem Advances.to_phase {p : Phase} (hp : s.phase = p) (q : Phase) (hq : t.phase = q)
    (hlt : q.sectionsLeft < p.sectionsLeft) (hc : t.count = s.count) : Advances s t :=
  .of_section (by rwa [hp, hq]) (by rw [hc])

/-- The command ends. -/
theorem Advances.to_idle (hs : s.phase ≠ .idle) (ht : t.phase = .idle) (hc : 5000 - t.count ≤ 5000 - s.count) :
    Advances s t :=
  .of_section (by rw [ht]; exact Phase.sectionsLeft_pos hs) hc

/-! Each step of a running command advances it. -/

theorem Advances.raise (hs : s.phase ≠ .idle) (e : Code) (c : Sec) (k : Nat) : Advances s (s.raise e c k) :=
  .to_idle hs (s.raise_phase e c k) (by rw [State.raise_count])

theorem Advances.complete (hs : s.phase ≠ .idle) (r : Result) : Advances s (s.complete r) :=
  .to_idle hs (s.complete_phase r) (by rw [State.complete_count])

theorem Advances.ctRead (h : s.phase = .ct) : Advances s s.ctRead := by
  rcases s.ctRead_cases with ⟨_, he⟩ | ⟨_, ct, he⟩ <;> rw [he]
  · exact .raise (by simp [h]) ..
  · exact .to_phase h .dict rfl (by decide) rfl

theorem Advances.dictRead (h : s.phase = .dict) : Advances s s.dictRead := by
  rcases s.dictRead_cases with ⟨_, he⟩ | ⟨_, dl, dr, he⟩ <;> rw [he]
  · exact .raise (by simp [h]) ..
  · exact .to_phase h .flen rfl (by decide) rfl

theorem Advances.flenRead (h : s.phase = .flen) : Advances s s.flenRead := by
  have hs : s.phase ≠ .idle := by simp [h]
  rcases s.flenRead_cases with ⟨_, he⟩ | ⟨_, _, he⟩ | ⟨_, _, he⟩ <;> rw [he]
  · exact .raise hs ..
  · exact Advances.raise (s := { s with flipL := s.inHalf 384 }) hs ..
  · exact .to_phase h .fbits rfl (by decide) rfl

theorem Advances.fbitsRead (h : s.phase = .fbits) : Advances s s.fbitsRead := by
  rcases s.fbitsRead_cases with ⟨_, he⟩ | ⟨_, he⟩ <;> rw [he]
  · exact .raise (by simp [h]) ..
  · exact .to_phase h .pixels rfl (by decide) rfl

theorem Advances.countToken (hs : s.phase ≠ .idle) (hc : s.count < 5000) {n : Nat} (hn : 0 < n) (size d : Nat) :
    Advances s (s.countToken size n d) := by
  rcases s.countToken_cases size n d with ⟨_, he⟩ | ⟨_, he⟩ <;> rw [he]
  · exact .of_pixels rfl hc (Nat.lt_add_of_pos_right hn)
  · exact .raise hs ..

theorem State.paint_count (s : State) (size : Nat) (ps : List Colour) :
    (s.paint size ps).count = s.count + ps.length := by rw [State.paint_eq]

theorem Advances.paint (hc : s.count < 5000) (size : Nat) {ps : List Colour} (hps : 0 < ps.length) :
    Advances s (s.paint size ps) :=
  .of_pixels (s.paint_phase size ps) hc (by rw [State.paint_count]; omega)

theorem Advances.paintInRow (hs : s.phase ≠ .idle) (hc : s.count < 5000) (size : Nat) {ps : List Colour}
    (hps : 0 < ps.length) : Advances s (s.paintInRow size ps) := by
  rcases s.paintInRow_cases size ps with ⟨_, he⟩ | ⟨_, he⟩ <;> rw [he]
  · exact .paint hc size hps
  · exact .raise hs ..

theorem Advances.paintPair (hs : s.phase ≠ .idle) (hc : s.count < 5000) (j : BitVec 6) :
    Advances s (s.paintPair j) := by
  rcases s.paintPair_cases j with ⟨_, _, he⟩ | ⟨_, he⟩ | ⟨_, _, he⟩ <;> rw [he]
  · exact Advances.paint hc 1 (by rw [State.pair_length]; decide)
  · exact .raise hs ..
  · exact .raise hs ..

/-- Every token yields a pixel (30_encoding.md R93). -/
theorem tokenYield_pixels_pos {i : Instr} (hi : i.source = .stream) : 0 < (tokenYield i).2.1 := by
  cases i with
  | sgl | dbl | dic | run => simp [tokenYield]
  | decode | encode | sniff | badCommand => exact absurd hi (by simp [Instr.source])

theorem Advances.token (hs : s.phase ≠ .idle) (hc : s.count < 5000) {i : Instr} (hi : i.source = .stream) :
    Advances s (effect i s) := by
  cases hsniff : s.sniffing with
  | true =>
    rw [effect_sniff hsniff hi]
    exact .countToken hs hc (tokenYield_pixels_pos hi) ..
  | false =>
    cases i with
    | sgl x => rw [effect_sgl hsniff]; exact .paint hc 1 (by simp)
    | dbl x => rw [effect_dbl hsniff]; exact .paintInRow hs hc 1 (by simp)
    | dic j => rw [effect_dic hsniff]; exact .paintPair hs hc j
    | run x r => rw [effect_run hsniff]; exact .paintInRow hs hc 2 (by simp [runLength])
    | decode | encode | sniff | badCommand => exact absurd hi (by simp [Instr.source])

theorem Advances.tokenEffect (h : s.phase = .pixels) : Advances s (tokenEffect s) := by
  have hs : s.phase ≠ .idle := by simp [h]
  rcases tokenEffect_cases s with ⟨_, he⟩ | ⟨_, _, he⟩ | ⟨_, _, he⟩ | ⟨hc, _, i, _, _, hi, _, he⟩ <;> rw [he]
  · exact .to_phase h .ending rfl (by decide) rfl
  · exact .raise hs ..
  · exact .raise hs ..
  · exact .token hs hc hi

theorem Advances.finishSniff (hs : s.phase ≠ .idle) : Advances s s.finishSniff := by
  unfold State.finishSniff
  split
  · exact .raise hs ..
  · exact .complete hs _

theorem Advances.of_encoding (hs : s.phase ≠ .idle) (he : s.encoding = true) : Advances s (engineEffect s) := by
  cases h : s.phase <;> simp only [engineEffect, h, he, if_true]
  case idle => exact absurd h hs
  case ct => rw [State.ctWrite_eq]; exact .to_phase h .dict rfl (by decide) rfl
  case dict => rw [State.dictWrite_eq]; exact .to_phase h .flen rfl (by decide) rfl
  case flen => rw [State.flenWrite_eq]; exact .to_phase h .fbits rfl (by decide) rfl
  case fbits => rw [State.fbitsWrite_eq]; exact .to_phase h .pixels rfl (by decide) rfl
  case pixels => rw [State.bodyWrite_eq]; exact .to_phase h .ending rfl (by decide) rfl
  case ending => exact .to_idle hs (State.complete_phase ..) (by simp [State.finishEncode])

theorem Advances.of_not_encoding (hs : s.phase ≠ .idle) (he : s.encoding = false) : Advances s (engineEffect s) := by
  cases h : s.phase <;> simp only [engineEffect, h, he, Bool.false_eq_true, if_false]
  case idle => exact absurd h hs
  case ct => exact .ctRead h
  case dict => exact .dictRead h
  case flen => exact .flenRead h
  case fbits => exact .fbitsRead h
  case pixels => exact .tokenEffect h
  case ending =>
    split
    · exact .finishSniff hs
    · exact .complete hs _

theorem Advances.engineEffect (hs : s.phase ≠ .idle) : Advances s (engineEffect s) := by
  cases he : s.encoding with
  | true => exact .of_encoding hs he
  | false => exact .of_not_encoding hs he

end

/-! The run. -/

/-- With the host silent a running command ends within the steps still to come: induction on them. -/
theorem iterate_stepEffect_ends {s : State} (hq : s.hostQ = []) (hs : s.phase ≠ .idle) :
    ∃ n, n ≤ s.stepsLeft ∧ (stepEffect^[n] s).phase = .idle ∧ (stepEffect^[n] s).busy = false ∧
      (stepEffect^[n] s).done = true := by
  induction hleft : s.stepsLeft using Nat.strong_induction_on generalizing s with
  | _ left ih =>
    have hm := engineEffect_move s
    have hlt : (engineEffect s).stepsLeft < left := hleft ▸ Advances.engineEffect hs
    by_cases hend : (engineEffect s).phase = .idle
    · have hdone := hm.completes hs hend
      refine ⟨1, by omega, ?_⟩
      rw [Function.iterate_one, stepEffect_silent hq]
      exact ⟨hend, hdone.busy, hdone.done⟩
    · obtain ⟨n, hn, hrun⟩ := ih _ hlt (hm.hostQ.trans hq) hend rfl
      refine ⟨n + 1, by omega, ?_⟩
      rw [Function.iterate_succ_apply, stepEffect_silent hq]
      exact hrun

/-- Settles O57. -/
theorem everyCommandCompletes : Obligations.EveryCommandCompletes := fun s hq hs =>
  let ⟨n, hn, hrun⟩ := iterate_stepEffect_ends hq hs
  ⟨n, _, hn.trans s.stepsLeft_le, run_eq n s, hrun⟩

end Sys2Proof.Machine
end
